-- ==== Sys2Proof/Word.lean ====
section
/-! DEFINITION. The machine's words: bytes, 16-bit cells, 12-bit addresses and register indices (00_scope R7, R9, R10). -/

namespace Sys2Proof

/-- An 8-bit cell: a general register, a timer or a byte of memory (R21, R31, R35). -/
abbrev Byte := BitVec 8

/-- A 16-bit cell: I, pc, a stack slot or an instruction word (R24, R27, R28, R70). -/
abbrev Word := BitVec 16

/-- A 12-bit address field of an instruction (R71). -/
abbrev Addr := BitVec 12

/-- A general register's index, 0 to 15 (R21). -/
abbrev RegIx := Fin 16

/-- VF, the flag register: "register 15 doubles as the flag register" (R22). -/
abbrev vf : RegIx := 15

/-- A 16-entry key snapshot, bit k for key k (R42; log 4). -/
abbrev KeySet := BitVec 16

end Sys2Proof
end

