-- ==== Sys2Proof/Config.lean ====
section
/-! DEFINITION. The parameters of 00_scope R8, their defaults, and the one free value. -/

namespace Sys2Proof

/-- What an instruction does with an operand above 0xF that names a key or a digit (R172, R186). -/
inductive IndexPolicy where
  | fault
  | lowNibble
deriving DecidableEq, Repr

/-- FLAG_OPERAND_ORDER (R130): whether the second write of 8xy6, 8xy7 and 8xyE reads the registers as they stood
before the instruction, or reads them again after the flag is written. -/
inductive OperandOrder where
  | pre
  | seq
deriving DecidableEq, Repr

/-- KEYWAIT_MODE (R173): a newly pressed key ends the wait, or any pressed key does. -/
inductive KeyWaitMode where
  | edge
  | level
deriving DecidableEq, Repr

/-- The parameters the document leaves open, "which the model takes as arguments" (R8). They are fixed for the life
of an instance (R20). -/
structure Config where
  displayW        : Nat
  displayH        : Nat
  fontBase        : Nat
  fontData        : Vector Byte 80
  fontDigitPolicy : IndexPolicy
  keyIndexPolicy  : IndexPolicy
  allowOddPc      : Bool
  protectReserved : Bool
  operandOrder    : OperandOrder
  strict59        : Bool
  keyWaitMode     : KeyWaitMode
deriving DecidableEq, Repr

/-- Glyphs 0 to 7 of the default FONT_DATA, five bytes each, top row first (R38). -/
def Config.glyphs0to7 : List Byte :=
  [0xF0, 0x90, 0x90, 0x90, 0xF0] ++ [0x20, 0x60, 0x20, 0x20, 0x70] ++
  [0xF0, 0x10, 0xF0, 0x80, 0xF0] ++ [0xF0, 0x10, 0xF0, 0x10, 0xF0] ++
  [0x90, 0x90, 0xF0, 0x10, 0x10] ++ [0xF0, 0x80, 0xF0, 0x10, 0xF0] ++
  [0xF0, 0x80, 0xF0, 0x90, 0xF0] ++ [0xF0, 0x10, 0x20, 0x40, 0x40]

/-- Glyphs 8 to F of the default FONT_DATA (R38). -/
def Config.glyphs8toF : List Byte :=
  [0xF0, 0x90, 0xF0, 0x90, 0xF0] ++ [0xF0, 0x90, 0xF0, 0x10, 0xF0] ++
  [0xF0, 0x90, 0xF0, 0x90, 0x90] ++ [0xE0, 0x90, 0xE0, 0x90, 0xE0] ++
  [0xF0, 0x80, 0x80, 0x80, 0xF0] ++ [0xE0, 0x90, 0x90, 0x90, 0xE0] ++
  [0xF0, 0x80, 0xF0, 0x80, 0xF0] ++ [0xF0, 0x80, 0xF0, 0x80, 0x80]

/-- The default FONT_DATA of R38. -/
def Config.defaultFont : Vector Byte 80 :=
  ⟨(Config.glyphs0to7 ++ Config.glyphs8toF).toArray, rfl⟩

/-- The defaults of R8. The values 64, 32, 0x050 and the glyphs are the spec's own, from general knowledge
(93_implementation_defined G1 to G3; log 1, log 18). -/
def Config.default : Config where
  displayW        := 64
  displayH        := 32
  fontBase        := 0x050
  fontData        := Config.defaultFont
  fontDigitPolicy := .fault
  keyIndexPolicy  := .fault
  allowOddPc      := false
  protectReserved := true
  operandOrder    := .pre
  strict59        := false
  keyWaitMode     := .edge

/-- FREE VALUE (log 3): the random byte of the n-th STEP for which the host's queue names none. R143: RND is "a draw
under no law: a claim must hold for every RND the host can supply". -/
opaque Config.freeRandom : Nat → Byte

end Sys2Proof
end

