-- ==== Sys2Proof/Syntax.lean ====
section
/-! DEFINITION. The instructions: one constructor per row of spec/opcode_table.json (30_encoding R83), with the
operand fields the table gives the row. -/

namespace Sys2Proof

/-- The complete instruction set, 35 instructions (R83). The low nibble of 5xyN and 9xyN is no operand and is not
kept; `nnn` of SYS and `y` of the two shifts are fields of their rows that the instruction ignores (R88; log 15). -/
inductive Instr where
  | cls
  | ret
  | sys (nnn : Addr)
  | jpAddr (nnn : Addr)
  | call (nnn : Addr)
  | seImm (x : RegIx) (kk : Byte)
  | sneImm (x : RegIx) (kk : Byte)
  | seReg (x y : RegIx)
  | ldImm (x : RegIx) (kk : Byte)
  | addImm (x : RegIx) (kk : Byte)
  | ldReg (x y : RegIx)
  | or (x y : RegIx)
  | and (x y : RegIx)
  | xor (x y : RegIx)
  | addReg (x y : RegIx)
  | sub (x y : RegIx)
  | shr (x y : RegIx)
  | subn (x y : RegIx)
  | shl (x y : RegIx)
  | sneReg (x y : RegIx)
  | ldI (nnn : Addr)
  | jpV0 (nnn : Addr)
  | rnd (x : RegIx) (kk : Byte)
  /-- `n` is the row count, 0 to 15 (R79). -/
  | drw (x y : RegIx) (n : Fin 16)
  | skp (x : RegIx)
  | sknp (x : RegIx)
  | ldVxDt (x : RegIx)
  | ldVxK (x : RegIx)
  | ldDtVx (x : RegIx)
  | ldStVx (x : RegIx)
  | addIVx (x : RegIx)
  | ldFVx (x : RegIx)
  | ldBVx (x : RegIx)
  | ldMemVx (x : RegIx)
  | ldVxMem (x : RegIx)
deriving DecidableEq, Repr

end Sys2Proof
end

