-- ==== Sys2Proof/WellFormed.lean ====
section
/-! DEFINITION. Which instructions and which configurations are well formed. -/

namespace Sys2Proof

/-- SYS nnn is "0nnn for every nnn except 0x0E0 and 0x0EE" (R102), whose words are CLS and RET (R80). Every other
operand value is an instruction, and the types of the fields hold their ranges. -/
def Instr.wf : Instr → Bool
  | .sys nnn => nnn != 0x0E0#12 && nnn != 0x0EE#12
  | .cls | .ret | .jpAddr _ | .call _ | .seImm _ _ | .sneImm _ _ | .seReg _ _ | .ldImm _ _ | .addImm _ _
  | .ldReg _ _ | .or _ _ | .and _ _ | .xor _ _ | .addReg _ _ | .sub _ _ | .shr _ _ | .subn _ _ | .shl _ _
  | .sneReg _ _ | .ldI _ | .jpV0 _ | .rnd _ _ | .drw _ _ _ | .skp _ | .sknp _ | .ldVxDt _ | .ldVxK _
  | .ldDtVx _ | .ldStVx _ | .addIVx _ | .ldFVx _ | .ldBVx _ | .ldMemVx _ | .ldVxMem _ => true

/-- The display is at least one pixel wide and high (R8), and the font lies wholly in the reserved region:
"FONT_BASE + 80 <= 0x200" (R37). -/
def Config.wf (c : Config) : Bool :=
  decide (1 ≤ c.displayW) && decide (1 ≤ c.displayH) && decide (c.fontBase + 80 ≤ 0x200)

end Sys2Proof
end

