-- ==== Sys2Proof/Machine/State.lean ====
section
/-! DEFINITION. The machine's state (10_state R20, R46), its reset value (R47), and the reasons a step can stop. -/

namespace Sys2Proof.Machine

/-- The run-state register RS (R39). -/
inductive RunState where
  | running
  | awaitingKey (r : RegIx)
  | halted
deriving DecidableEq, Repr

/-- The failure taxonomy of 60_exceptions R200. -/
inductive FailureCode where
  | unknownOpcode
  | stackOverflow
  | stackUnderflow
  | addressOutOfRange
  | operandOutOfRange
  | programLoadError
deriving DecidableEq, Repr

/-- The status record SR (R45). -/
structure StatusRecord where
  code : BitVec 3
  word : Word
  pc   : Word
  addr : Word
  unk  : Bool
deriving DecidableEq, Repr

/-- What the last operation returned to the host: STEP's outcomes (R43) and LOAD's failure (R232). LOAD and STEP
share `ok`. RESET and TICK return nothing (log 5). -/
inductive OpResult where
  | none
  | ok
  | waiting
  | unknown (word pc : Word)
  | fault (code : BitVec 3) (word pc addr : Word)
  | isHalted
  | programLoadError
deriving DecidableEq, Repr

/-- An operation of the host (R41). -/
inductive HostOp where
  | reset
  | load (image : List Byte)
  | step (keys : KeySet) (rnd : Byte)
  | tick
deriving DecidableEq, Repr

/-- The display surface as its rows, top first, each row left to right (R34; log 10). -/
abbrev Display := List (List Bool)

/-- Memory as its cells that differ from the reset contents (R35; log 9). -/
abbrev Memory := List Host.Cell

/-- All mutable state (R20, R46), then the model's own fields: the instance's parameters (log 1), the inputs of the
STEP being run (log 4), the last operation's result (log 5), the host's operations yet to be run (log 2), the counter
of free random bytes (log 3), and whether a LOAD is still allowed (log 11). -/
structure State where
  v        : Vector Byte 16
  i        : Word
  pc       : Word
  sp       : Fin 17
  stack    : Vector Word 16
  dt       : Byte
  st       : Byte
  disp     : Display
  mem      : Memory
  rs       : RunState
  kl       : KeySet
  sr       : StatusRecord
  cfg      : Config
  keys     : KeySet
  rnd      : Byte
  result   : OpResult
  ops      : List HostOp
  draws    : Nat
  loadable : Bool
deriving DecidableEq, Repr

/-- No step of this hardware ends in a fault of the model: the spec gives the effect of every failure whole, as a
state (R202, R204), so each failure is a next state with RS, SR and `result` written (log 6). Safe: a claim about the
state after a failure is a claim about what R204 says it is. -/
inductive Fault where
deriving DecidableEq, Repr

/-- Why a step is refused. -/
inductive Refusal where
  /-- An arm of `exec` that has no meaning. No arm is left. Safe. -/
  | notModelled (mnemonic : String)
  /-- The host operation LOAD after a STEP: "outside the model: a model refuses it" (70_reset R232; log 11). Safe. -/
  | lateLoad
  /-- Any operation on an instance whose parameters break R8 or R37: "a configuration that breaks this constraint
  is refused" (log 12). Safe. -/
  | badConfiguration
deriving DecidableEq, Repr

/-- SR with "all fields 0, UNK = 0" (R47). -/
def StatusRecord.clear : StatusRecord := ⟨0, 0, 0, 0, false⟩

/-- The reset state of an instance (R47, 70_reset R230). Memory lists no cell, so every address reads as the reset
contents: 0x00, with FONT_DATA at FONT_BASE (R231). -/
def State.resetWith (c : Config) : State where
  v        := Vector.replicate 16 0
  i        := 0
  pc       := 0x0200
  sp       := 0
  stack    := Vector.replicate 16 0
  dt       := 0
  st       := 0
  disp     := List.replicate c.displayH (List.replicate c.displayW false)
  mem      := []
  rs       := .running
  kl       := 0
  sr       := .clear
  cfg      := c
  keys     := 0
  rnd      := 0
  result   := .none
  ops      := []
  draws    := 0
  loadable := true

/-- The machine right after reset, with the default parameters (R8; log 1). -/
def State.reset : State := State.resetWith Config.default

end Sys2Proof.Machine
end

