-- ==== Sys2Proof/Machine/Flags.lean ====
section
/-! DEFINITION. Every value the flag register is given (10_state R22; 41_alu R124 to R128; 43_draw R154). -/

namespace Sys2Proof.Machine

/-- A flag as the byte VF holds: 1 or 0. -/
def flagByte (b : Bool) : Byte := if b then 1 else 0

/-- 8xy4: the exact sum exceeds 255 (R124). -/
def carryFlag (a b : Byte) : Byte := flagByte (decide (a.toNat + b.toNat > 255))

/-- 8xy5: no borrow, "1 if Vx ≥ Vy before subtraction" (R125). -/
def noBorrowFlag (a b : Byte) : Byte := flagByte (decide (a.toNat ≥ b.toNat))

/-- 8xy7: the strict comparison "1 if Vy > Vx else 0", so that equal operands give 0 (R127). -/
def strictNoBorrowFlag (b a : Byte) : Byte := flagByte (decide (b.toNat > a.toNat))

/-- 8xy6: the bit shifted out, `a & 1` (R126). -/
def lowBitFlag (a : Byte) : Byte := a &&& 1

/-- 8xyE: the bit shifted out, `(a >> 7) & 1` (R128). -/
def highBitFlag (a : Byte) : Byte := (a >>> 7) &&& 1

/-- Dxyn: some pixel went from on to off (R154). -/
def collisionFlag (hit : Bool) : Byte := flagByte hit

end Sys2Proof.Machine
end

