-- ==== Sys2Proof/Decode.lean ====
section
/-! DEFINITION. The decoder (30_encoding R71), the dispatch of a word to an instruction or to UNKNOWN (R75, R84),
and after them the encoder, from the formats of R78 and the patterns of R83. -/

namespace Sys2Proof

/-- `w[hi:lo]`, "the unsigned value of bits hi down to lo" (00_scope R9). -/
def slice (w : Word) (hi lo : Nat) : Nat := (w.toNat >>> lo) % 2 ^ (hi + 1 - lo)

/-- The six fields of R71. They overlap, and each is computed for every word. -/
structure Fields where
  cls : Fin 16
  x   : RegIx
  y   : RegIx
  n   : Fin 16
  kk  : Byte
  nnn : Addr
deriving DecidableEq, Repr

/-- The opcode field extractor: "decoding never fails" (R71). -/
def fields (w : Word) : Fields where
  cls := Fin.ofNat 16 (slice w 15 12)
  x   := Fin.ofNat 16 (slice w 11 8)
  y   := Fin.ofNat 16 (slice w 7 4)
  n   := Fin.ofNat 16 (slice w 3 0)
  kk  := BitVec.ofNat 8 (slice w 7 0)
  nnn := BitVec.ofNat 12 (slice w 11 0)

/-- Why a word is UNKNOWN (R84). -/
inductive Unknown where
  /-- 8xyS with S in 0x8 to 0xD or 0xF (R132). -/
  | aluSubOp (n : Fin 16)
  /-- ExSS with SS neither 0x9E nor 0xA1 (R82). -/
  | keySubOp (kk : Byte)
  /-- FxSS with SS none of the nine sub-ops (R190). -/
  | miscSubOp (kk : Byte)
  /-- 5xyN or 9xyN with N not 0, under STRICT_5_9 (R81). -/
  | strictLowNibble (n : Fin 16)
  /-- No whole word is there to decode: fewer than two bytes (R70). -/
  | truncated
deriving DecidableEq, Repr

/-- "The closed decode set includes an UNKNOWN variant" (90_conflicts C10). -/
inductive Decoded where
  | instr (i : Instr)
  | unknown (why : Unknown)
deriving DecidableEq, Repr

/-- Class 0x0 is matched on the whole word (R80). -/
def dispatchClass0 (w : Word) (nnn : Addr) : Instr :=
  if w = 0x00E0#16 then .cls else if w = 0x00EE#16 then .ret else .sys nnn

/-- Class 0x8 is selected by n (R82). -/
def dispatchAlu (x y n : Fin 16) : Decoded :=
  match n.val with
  | 0x0 => .instr (.ldReg x y)
  | 0x1 => .instr (.or x y)
  | 0x2 => .instr (.and x y)
  | 0x3 => .instr (.xor x y)
  | 0x4 => .instr (.addReg x y)
  | 0x5 => .instr (.sub x y)
  | 0x6 => .instr (.shr x y)
  | 0x7 => .instr (.subn x y)
  | 0xE => .instr (.shl x y)
  | _ => .unknown (.aluSubOp n)

/-- Class 0xE is selected by kk (R82). -/
def dispatchKey (x : RegIx) (kk : Byte) : Decoded :=
  match kk.toNat with
  | 0x9E => .instr (.skp x)
  | 0xA1 => .instr (.sknp x)
  | _ => .unknown (.keySubOp kk)

/-- Class 0xF is selected by kk (R82). -/
def dispatchMisc (x : RegIx) (kk : Byte) : Decoded :=
  match kk.toNat with
  | 0x07 => .instr (.ldVxDt x)
  | 0x0A => .instr (.ldVxK x)
  | 0x15 => .instr (.ldDtVx x)
  | 0x18 => .instr (.ldStVx x)
  | 0x1E => .instr (.addIVx x)
  | 0x29 => .instr (.ldFVx x)
  | 0x33 => .instr (.ldBVx x)
  | 0x55 => .instr (.ldMemVx x)
  | 0x65 => .instr (.ldVxMem x)
  | _ => .unknown (.miscSubOp kk)

/-- 5xyN and 9xyN: N is ignored, unless STRICT_5_9 makes N != 0 UNKNOWN (R81). -/
def dispatchSkip (strict : Bool) (n : Fin 16) (i : Instr) : Decoded :=
  if strict && n != 0 then .unknown (.strictLowNibble n) else .instr i

/-- Dispatch (R75). All 16 classes are defined (90_conflicts C11), so the last arm is class 0xF. -/
def dispatch (strict : Bool) (w : Word) (f : Fields) : Decoded :=
  match f.cls.val with
  | 0x0 => .instr (dispatchClass0 w f.nnn)
  | 0x1 => .instr (.jpAddr f.nnn)
  | 0x2 => .instr (.call f.nnn)
  | 0x3 => .instr (.seImm f.x f.kk)
  | 0x4 => .instr (.sneImm f.x f.kk)
  | 0x5 => dispatchSkip strict f.n (.seReg f.x f.y)
  | 0x6 => .instr (.ldImm f.x f.kk)
  | 0x7 => .instr (.addImm f.x f.kk)
  | 0x8 => dispatchAlu f.x f.y f.n
  | 0x9 => dispatchSkip strict f.n (.sneReg f.x f.y)
  | 0xA => .instr (.ldI f.nnn)
  | 0xB => .instr (.jpV0 f.nnn)
  | 0xC => .instr (.rnd f.x f.kk)
  | 0xD => .instr (.drw f.x f.y f.n)
  | 0xE => dispatchKey f.x f.kk
  | _ => dispatchMisc f.x f.kk

/-- The instruction a word stands for, or UNKNOWN, under a setting of STRICT_5_9. -/
def decode (strict : Bool) (w : Word) : Decoded := dispatch strict w (fields w)

/-- `FetchWord`'s byte order: the first byte supplies bits 15 to 8 (20_memory R52). -/
def wordOfBytes (hi lo : Byte) : Word := hi ++ lo

/-- The decoder on any bytes: it "always consumes exactly 2 bytes" (R70) and gives the rest back. -/
def decodeBytes (strict : Bool) : List Byte → Decoded × List Byte
  | hi :: lo :: rest => (decode strict (wordOfBytes hi lo), rest)
  | short => (.unknown .truncated, short)

/-- Format NNN, `cccc aaaa aaaa aaaa` (R78). -/
def wordNNN (c : Nat) (nnn : Addr) : Word := BitVec.ofNat 16 (c * 0x1000 + nnn.toNat)

/-- Format XKK, `cccc xxxx kkkk kkkk` (R78); format XSS is this one with a fixed sub-op. -/
def wordXKK (c : Nat) (x : RegIx) (kk : Byte) : Word := BitVec.ofNat 16 (c * 0x1000 + x.val * 0x100 + kk.toNat)

/-- Format XYN, `cccc xxxx yyyy nnnn` (R78); format XYS is this one with a fixed sub-op. -/
def wordXYN (c : Nat) (x y n : Fin 16) : Word :=
  BitVec.ofNat 16 (c * 0x1000 + x.val * 0x100 + y.val * 0x10 + n.val)

/-- The word of an instruction, from the patterns of R83. 5xyN and 9xyN take their canonical spelling N = 0 (R81). -/
def encode : Instr → Word
  | .cls => 0x00E0#16
  | .ret => 0x00EE#16
  | .sys nnn => wordNNN 0x0 nnn
  | .jpAddr nnn => wordNNN 0x1 nnn
  | .call nnn => wordNNN 0x2 nnn
  | .seImm x kk => wordXKK 0x3 x kk
  | .sneImm x kk => wordXKK 0x4 x kk
  | .seReg x y => wordXYN 0x5 x y 0x0
  | .ldImm x kk => wordXKK 0x6 x kk
  | .addImm x kk => wordXKK 0x7 x kk
  | .ldReg x y => wordXYN 0x8 x y 0x0
  | .or x y => wordXYN 0x8 x y 0x1
  | .and x y => wordXYN 0x8 x y 0x2
  | .xor x y => wordXYN 0x8 x y 0x3
  | .addReg x y => wordXYN 0x8 x y 0x4
  | .sub x y => wordXYN 0x8 x y 0x5
  | .shr x y => wordXYN 0x8 x y 0x6
  | .subn x y => wordXYN 0x8 x y 0x7
  | .shl x y => wordXYN 0x8 x y 0xE
  | .sneReg x y => wordXYN 0x9 x y 0x0
  | .ldI nnn => wordNNN 0xA nnn
  | .jpV0 nnn => wordNNN 0xB nnn
  | .rnd x kk => wordXKK 0xC x kk
  | .drw x y n => wordXYN 0xD x y n
  | .skp x => wordXKK 0xE x 0x9E
  | .sknp x => wordXKK 0xE x 0xA1
  | .ldVxDt x => wordXKK 0xF x 0x07
  | .ldVxK x => wordXKK 0xF x 0x0A
  | .ldDtVx x => wordXKK 0xF x 0x15
  | .ldStVx x => wordXKK 0xF x 0x18
  | .addIVx x => wordXKK 0xF x 0x1E
  | .ldFVx x => wordXKK 0xF x 0x29
  | .ldBVx x => wordXKK 0xF x 0x33
  | .ldMemVx x => wordXKK 0xF x 0x55
  | .ldVxMem x => wordXKK 0xF x 0x65

/-- The one instruction word that a table row of `nbits` bits gives: the bits above `nbits` are 0, and bits above the
16 of an instruction are none of its own. -/
def tableWord (nbits w : Nat) : Word := BitVec.ofNat 16 (w % 2 ^ nbits)

/-- The bytes of a word as they lie in memory, lowest address first (20_memory R52). -/
def bytesOfWord (w : Word) : List Byte := [BitVec.ofNat 8 (slice w 15 8), BitVec.ofNat 8 (slice w 7 0)]

/-- What this decoder reads from a table row's word, under the default configuration (log 20). -/
def decodeTableWord (nbits w : Nat) : Option Instr :=
  match (decodeBytes Config.default.strict59 (bytesOfWord (tableWord nbits w))).1 with
  | .instr i => some i
  | .unknown _ => none

end Sys2Proof
end

