-- ==== Sys2Proof/Machine/Ops.lean ====
section
/-! DEFINITION. The named operations over the state: registers, memory, the address checks, the stack, the display,
the pc commit, and the failures. -/

namespace Sys2Proof.Machine

/-- What a meaning answers. -/
abbrev Outcome := Host.Outcome State Fault Refusal

/-! ### General registers (10_state R21) -/

/-- `V[k]`. -/
def State.reg (s : State) (k : RegIx) : Byte := s.v[k.val]

/-- `V[k] <- b`. -/
def State.setReg (s : State) (k : RegIx) (b : Byte) : State := { s with v := s.v.set k.val b }

/-- The whole register file at once. -/
def State.setRegs (s : State) (v : Vector Byte 16) : State := { s with v := v }

/-- `I <- w`. -/
def State.setI (s : State) (w : Word) : State := { s with i := w }

/-- `DT <- b` (R31). -/
def State.setDt (s : State) (b : Byte) : State := { s with dt := b }

/-- `ST <- b` (R32). -/
def State.setSt (s : State) (b : Byte) : State := { s with st := b }

/-- `V[k] <- bs[0]`, `V[k+1] <- bs[1]`, and so on in ascending order (45_misc R189). -/
def writeRegs (v : Vector Byte 16) : Nat → List Byte → Vector Byte 16
  | _, [] => v
  | k, b :: bs => writeRegs (v.setIfInBounds k b) (k + 1) bs

/-! ### The end of an instruction (30_encoding R76; 10_state R43) -/

/-- What the operation returns to the host, with nothing else changed (R43). -/
def State.answer (s : State) (r : OpResult) : State := { s with result := r }

/-- The instruction completes with `pc <- target` and STEP returns OK. -/
def State.jump (s : State) (target : Word) : State := { s with pc := target, result := .ok }

/-- The plain advance: the rule writes no pc, so `pc <- pc + 2` (R76). -/
def State.advance (s : State) : State := s.jump (s.pc + 2)

/-- A skip: `pc <- pc + 4` if the condition holds, else the plain advance (R76; 90_conflicts C2). -/
def State.skipIf (s : State) (c : Bool) : State := s.jump (if c then s.pc + 4 else s.pc + 2)

/-! ### Failures (60_exceptions R200 to R204) -/

/-- The code SR.code holds (R200). -/
def FailureCode.number : FailureCode → BitVec 3
  | .unknownOpcode => 1
  | .stackOverflow => 2
  | .stackUnderflow => 3
  | .addressOutOfRange => 4
  | .operandOutOfRange => 5
  | .programLoadError => 6

/-- `raise`: the effect of a fatal failure (R204). Nothing of the failing instruction is written; SR takes the code,
the word, the pc and the address and keeps UNK (R45); RS becomes HALTED; pc stays on the instruction. There is no
handler and no return from it (R209): only RESET leaves HALTED (R205). -/
def State.raise (s : State) (code : FailureCode) (w : Word) (addr : Word) : State :=
  { s with
    sr := { s.sr with code := code.number, word := w, pc := s.pc, addr := addr }
    rs := .halted
    result := .fault code.number w s.pc addr }

/-- `report UnknownOpcode`: SR.UNK is set, pc advances, nothing else changes (R202). -/
def State.reportUnknown (s : State) (w : Word) : State :=
  { s with sr := { s.sr with unk := true }, pc := s.pc + 2, result := .unknown w s.pc }

/-! ### Memory (20_memory) -/

/-- The contents of memory after RESET: FONT_DATA[k] at FONT_BASE + k, 0x00 elsewhere (R231, R47). It is what an
unlisted address reads as. -/
def background (c : Config) (a : Nat) : Byte :=
  if c.fontBase ≤ a then c.fontData.toList.getD (a - c.fontBase) 0 else 0

/-- The byte at an address: the listed one, or the reset contents. -/
def Memory.read (c : Config) (m : Memory) (a : Nat) : Byte :=
  match m with
  | [] => background c a
  | (k, b) :: rest => if k = a then b else Memory.read c rest a

/-- One cell in front, unless it says what an unlisted address reads as. -/
def Memory.cons (c : Config) (a : Nat) (b : Byte) (m : Memory) : Memory :=
  if b = background c a then m else (a, b) :: m

/-- Stores a byte and keeps the cells in their canonical form. -/
def Memory.write (c : Config) (m : Memory) (a : Nat) (b : Byte) : Memory :=
  match m with
  | [] => Memory.cons c a b []
  | (k, old) :: rest =>
    if a < k then Memory.cons c a b ((k, old) :: rest)
    else if k = a then Memory.cons c a b rest
    else (k, old) :: Memory.write c rest a b

/-- The canonical form: addresses of the 4096 bytes, strictly rising, and no cell that says what an unlisted address
reads as. -/
abbrev Memory.wf (c : Config) (m : Memory) : Prop :=
  (m.Pairwise fun p q => p.1 < q.1) ∧ ∀ p ∈ m, p.1 < 0x1000 ∧ p.2 ≠ background c p.1

/-- `MemRead(a, 1)`. -/
def State.readByte (s : State) (a : Nat) : Byte := Memory.read s.cfg s.mem a

/-- `MemWrite(a, 1, b)`. -/
def State.writeByte (s : State) (a : Nat) (b : Byte) : State := { s with mem := Memory.write s.cfg s.mem a b }

/-- `n` bytes at consecutive ascending addresses (R53). -/
def State.readBytes (s : State) (a n : Nat) : List Byte := (List.range n).map fun k => s.readByte (a + k)

/-- Stores bytes at consecutive ascending addresses (R53). -/
def State.storeBytes (s : State) (a : Nat) : List Byte → State
  | [] => s
  | b :: bs => (s.writeByte a b).storeBytes (a + 1) bs

/-- "An address a of 0x1000 or more raises AddressOutOfRange" (R56). -/
def mayRead (a : Nat) : Bool := decide (a < 0x1000)

/-- A store is checked against R56, and with PROTECT_RESERVED against the reserved region too (R58). -/
def mayStore (c : Config) (a : Nat) : Bool := mayRead a && !(c.protectReserved && decide (a < 0x200))

/-- The addresses of an access of `n` bytes through I: "exact integers from the 16-bit I and the offset" (R56). -/
def State.addresses (s : State) (n : Nat) : List Nat := (List.range n).map fun k => s.i.toNat + k

/-- Check before access (R59): every address is checked before anything is written, and "the first failing address
in ascending order is the one reported". -/
def State.checked (s : State) (addrs : List Nat) (ok : Nat → Bool) (w : Word) (effect : State) : State :=
  match addrs.find? fun a => !ok a with
  | some a => s.raise .addressOutOfRange w (BitVec.ofNat 16 a)
  | none => effect

/-! ### The call stack (10_state R28 to R30) -/

/-- Pushes a return address, unless 16 are on the stack (R104). -/
def State.push (s : State) (w : Word) : Option State :=
  if h : s.sp.val < 16 then some { s with stack := s.stack.set s.sp.val w, sp := ⟨s.sp.val + 1, by omega⟩ } else none

/-- Pops the most recent return address, unless none is there. The slot keeps its value (R29, R101). -/
def State.pop (s : State) : Option (Word × State) :=
  if h : 0 < s.sp.val then some (s.stack[s.sp.val - 1], { s with sp := ⟨s.sp.val - 1, by omega⟩ }) else none

/-! ### The display (10_state R34; 43_draw) -/

/-- `DISP[col][row]`. -/
def Display.pixel (d : Display) (col row : Nat) : Bool := (d.getD row []).getD col false

/-- `DISP[col][row] <- not DISP[col][row]`. -/
def Display.flip (d : Display) (col row : Nat) : Display := d.modify row fun line => line.modify col not

/-- The display surface replaced. -/
def State.setDisp (s : State) (d : Display) : State := { s with disp := d }

/-- Every pixel off (R100). -/
def Display.blank (c : Config) : Display := List.replicate c.displayH (List.replicate c.displayW false)

/-- The surface has the configured height and width (R34). -/
abbrev Display.wf (c : Config) (d : Display) : Prop := d.length = c.displayH ∧ ∀ line ∈ d, line.length = c.displayW

/-- The pixels under one sprite row's set bits, left to right: bit 7 is column offset 0 (R152), and both coordinates
wrap (R153). -/
def rowPixels (c : Config) (x0 y : Nat) (bits : Byte) : List (Nat × Nat) :=
  (List.range 8).filterMap fun j =>
    if bits.getLsbD (7 - j) then some ((x0 + j) % c.displayW, y % c.displayH) else none

/-- The pixels under a sprite's set bits, rows top to bottom and columns left to right (R156). -/
def spritePixels (c : Config) (x0 y0 : Nat) : List Byte → List (Nat × Nat)
  | [] => []
  | bits :: rows => rowPixels c x0 y0 bits ++ spritePixels c x0 (y0 + 1) rows

/-- Inverts the pixels in order. The second component says whether a pixel was on when it was inverted (R154), each
test seeing every inversion already made (R156). -/
def blit (d : Display) : List (Nat × Nat) → Display × Bool
  | [] => (d, false)
  | (col, row) :: rest =>
    let after := blit (d.flip col row) rest
    (after.1, d.pixel col row || after.2)

/-! ### The key wait (10_state R39, R40) -/

/-- `KL <- KEYS` (45_misc R181; 44_keys R173). -/
def State.rememberKeys (s : State) : State := { s with kl := s.keys }

/-- `RS <- AWAITING_KEY(r)` (R181). -/
def State.beginWait (s : State) (r : RegIx) : State := { s with rs := .awaitingKey r }

/-- `RS <- RUNNING` (R173). -/
def State.endWait (s : State) : State := { s with rs := .running }

/-! ### Outputs (10_state R33) -/

/-- `delay_active = (DT != 0)`. -/
def State.delayActive (s : State) : Bool := s.dt != 0

/-- `sound_active = (ST != 0)`. -/
def State.soundActive (s : State) : Bool := s.st != 0

end Sys2Proof.Machine
end

