-- ==== Sys2Proof/Machine/Operands.lean ====
section
/-! DEFINITION. Operand forms beyond a register or an immediate: the operands of the second write of the
flag-first sub-ops, key indices, font digits, coordinates, and the memory block of an instruction. -/

namespace Sys2Proof.Machine

/-- An 8-bit value zero-extended to 16 bits (00_scope R10). -/
def zextByte (b : Byte) : Word := b.zeroExtend 16

/-- A 12-bit address zero-extended to 16 bits (30_encoding R79). -/
def zextAddr (a : Addr) : Word := a.zeroExtend 16

/-- The state whose registers the second write of 8xy6, 8xy7 and 8xyE reads: the one before the instruction under
PRE, the one after the flag was written under SEQ (41_alu R130). -/
def operandState (before flagged : State) : State :=
  match before.cfg.operandOrder with
  | .pre => before
  | .seq => flagged

/-- Sub-ops 4 and 5: V[x] first, then VF (R130). -/
def State.resultThenFlag (s : State) (x : RegIx) (value flag : Byte) : State := (s.setReg x value).setReg vf flag

/-- Sub-ops 6, 7 and E: VF first, then V[x], whose value is computed from the operands of R130. -/
def State.flagThenResult (s : State) (x : RegIx) (flag : Byte) (value : State → Byte) : State :=
  (s.setReg vf flag).setReg x (value (operandState s (s.setReg vf flag)))

/-- A value that names one of 16 keys or digits: itself up to 0xF; above it the low nibble or a failure, as the
policy says (44_keys R172; 45_misc R186). -/
def resolveIndex (p : IndexPolicy) (b : Byte) : Option (Fin 16) :=
  if h : b.toNat < 16 then some ⟨b.toNat, h⟩
  else match p with
    | .fault => none
    | .lowNibble => some (Fin.ofNat 16 (b.toNat % 16))

/-- `KeyIndex(V[x])` (44_keys R172). -/
def State.keyIndex (s : State) (x : RegIx) : Option (Fin 16) := resolveIndex s.cfg.keyIndexPolicy (s.reg x)

/-- The digit of Fx29 (45_misc R186). -/
def State.fontDigit (s : State) (x : RegIx) : Option (Fin 16) := resolveIndex s.cfg.fontDigitPolicy (s.reg x)

/-- `FONT_BASE + 5 * d` (45_misc R186). -/
def glyphAddress (c : Config) (d : Fin 16) : Word := BitVec.ofNat 16 (c.fontBase + 5 * d.val)

/-- `KEYS[k]` of this STEP (10_state R42). -/
def State.keyPressed (s : State) (k : Fin 16) : Bool := s.keys.getLsbD k.val

/-- The sprite's column origin, `V[x] mod DISPLAY_W` (43_draw R151). -/
def State.spriteCol (s : State) (x : RegIx) : Nat := (s.reg x).toNat % s.cfg.displayW

/-- The sprite's row origin, `V[y] mod DISPLAY_H` (43_draw R151). -/
def State.spriteRow (s : State) (y : RegIx) : Nat := (s.reg y).toNat % s.cfg.displayH

/-- The hundreds, tens and ones of a byte (45_misc R187). -/
def bcdDigits (b : Byte) : List Byte :=
  [BitVec.ofNat 8 (b.toNat / 100), BitVec.ofNat 8 (b.toNat / 10 % 10), BitVec.ofNat 8 (b.toNat % 10)]

/-- `V0..Vx` inclusive (45_misc R188). -/
def State.regBlock (s : State) (x : RegIx) : List Byte := s.v.toList.take (x.val + 1)

end Sys2Proof.Machine
end

