-- ==== Sys2Proof/Machine/Alu.lean ====
section
/-! DEFINITION. The meanings of class 0x8, the register ALU operations (41_alu R120 to R131). -/

namespace Sys2Proof.Machine

/-- LOAD Vx,Vy (R120). -/
def execLdReg (x y : RegIx) (s : State) : Outcome := .next (s.setReg x (s.reg y)).advance

/-- OR Vx,Vy (R121): VF is not written as a flag (R131). -/
def execOr (x y : RegIx) (s : State) : Outcome := .next (s.setReg x (s.reg x ||| s.reg y)).advance

/-- AND Vx,Vy (R122): VF is not written as a flag (R131). -/
def execAnd (x y : RegIx) (s : State) : Outcome := .next (s.setReg x (s.reg x &&& s.reg y)).advance

/-- XOR Vx,Vy (R123): VF is not written as a flag (R131). -/
def execXor (x y : RegIx) (s : State) : Outcome := .next (s.setReg x (s.reg x ^^^ s.reg y)).advance

/-- ADD Vx,Vy (R124). -/
def execAddReg (x y : RegIx) (s : State) : Outcome :=
  .next (s.resultThenFlag x (s.reg x + s.reg y) (carryFlag (s.reg x) (s.reg y))).advance

/-- SUB Vx,Vy (R125). -/
def execSub (x y : RegIx) (s : State) : Outcome :=
  .next (s.resultThenFlag x (s.reg x - s.reg y) (noBorrowFlag (s.reg x) (s.reg y))).advance

/-- SHR Vx (R126): the source is V[x], y is ignored. -/
def execShr (x _y : RegIx) (s : State) : Outcome :=
  .next (s.flagThenResult x (lowBitFlag (s.reg x)) fun from_ => from_.reg x >>> 1).advance

/-- SUBN Vx,Vy (R127). -/
def execSubn (x y : RegIx) (s : State) : Outcome :=
  .next (s.flagThenResult x (strictNoBorrowFlag (s.reg y) (s.reg x)) fun from_ => from_.reg y - from_.reg x).advance

/-- SHL Vx (R128): the source is V[x], y is ignored. -/
def execShl (x _y : RegIx) (s : State) : Outcome :=
  .next (s.flagThenResult x (highBitFlag (s.reg x)) fun from_ => from_.reg x <<< 1).advance

end Sys2Proof.Machine
end

