-- ==== Sys2Proof/Machine/Class0To7.lean ====
section
/-! DEFINITION. The meanings of classes 0x0 to 0x7 (40_class0_to_7 R100 to R109). -/

namespace Sys2Proof.Machine

/-- CLS (R100): every pixel off. -/
def execCls (s : State) : Outcome := .next (s.setDisp (Display.blank s.cfg)).advance

/-- RET (R101): pc takes the popped address, unchecked; StackUnderflow with nothing pushed. -/
def execRet (s : State) : Outcome :=
  match s.pop with
  | some (target, popped) => .next (popped.jump target)
  | none => .next (s.raise .stackUnderflow (encode .ret) 0)

/-- SYS nnn (R102): a no-op, nnn is ignored. -/
def execSys (_nnn : Addr) (s : State) : Outcome := .next s.advance

/-- JMP addr (R103). -/
def execJpAddr (nnn : Addr) (s : State) : Outcome := .next (s.jump (zextAddr nnn))

/-- CALL addr (R104): pushes the address of the next instruction; StackOverflow with 16 pushed. -/
def execCall (nnn : Addr) (s : State) : Outcome :=
  match s.push (s.pc + 2) with
  | some pushed => .next (pushed.jump (zextAddr nnn))
  | none => .next (s.raise .stackOverflow (encode (.call nnn)) 0)

/-- SE Vx,kk (R105). -/
def execSeImm (x : RegIx) (kk : Byte) (s : State) : Outcome := .next (s.skipIf (s.reg x == kk))

/-- SNE Vx,kk (R106). -/
def execSneImm (x : RegIx) (kk : Byte) (s : State) : Outcome := .next (s.skipIf (s.reg x != kk))

/-- SE Vx,Vy (R107). -/
def execSeReg (x y : RegIx) (s : State) : Outcome := .next (s.skipIf (s.reg x == s.reg y))

/-- LOAD Vx,kk (R108). -/
def execLdImm (x : RegIx) (kk : Byte) (s : State) : Outcome := .next (s.setReg x kk).advance

/-- ADD Vx,kk (R109): modulo 256, and no flag. -/
def execAddImm (x : RegIx) (kk : Byte) (s : State) : Outcome := .next (s.setReg x (s.reg x + kk)).advance

end Sys2Proof.Machine
end

