-- ==== Sys2Proof/Machine/Class9ToC.lean ====
section
/-! DEFINITION. The meanings of classes 0x9 to 0xC (42_class9_to_C R140 to R143). -/

namespace Sys2Proof.Machine

/-- SNE Vx,Vy (R140). -/
def execSneReg (x y : RegIx) (s : State) : Outcome := .next (s.skipIf (s.reg x != s.reg y))

/-- LOAD I,addr (R141). -/
def execLdI (nnn : Addr) (s : State) : Outcome := .next (s.setI (zextAddr nnn)).advance

/-- JMP V0+addr (R142): always V0, never V[x], and not masked to 12 bits. -/
def execJpV0 (nnn : Addr) (s : State) : Outcome := .next (s.jump (zextByte (s.reg 0) + zextAddr nnn))

/-- RND Vx,kk (R143): the random byte of this STEP (10_state R42; log 3, log 4). -/
def execRnd (x : RegIx) (kk : Byte) (s : State) : Outcome := .next (s.setReg x (s.rnd &&& kk)).advance

end Sys2Proof.Machine
end

