-- ==== Sys2Proof/Machine/Draw.lean ====
section
/-! DEFINITION. The meaning of class 0xD, the sprite XOR blitter (43_draw R150 to R157). -/

namespace Sys2Proof.Machine

/-- The state after a DRAW whose addresses are good: the pixels inverted, and VF the collision flag (R150, R154). The
coordinates are read before VF is written (R151). -/
def State.drawn (s : State) (x y : RegIx) (n : Fin 16) : State :=
  let after := blit s.disp (spritePixels s.cfg (s.spriteCol x) (s.spriteRow y) (s.readBytes s.i.toNat n.val))
  ((s.setDisp after.1).setReg vf (collisionFlag after.2)).advance

/-- DRAW Vx,Vy,n (R150): the row addresses are checked before VF or a pixel is written (R155). -/
def execDrw (x y : RegIx) (n : Fin 16) (s : State) : Outcome :=
  .next (s.checked (s.addresses n.val) mayRead (encode (.drw x y n)) (s.drawn x y n))

end Sys2Proof.Machine
end

