-- ==== Sys2Proof/Machine/Keys.lean ====
section
/-! DEFINITION. The meanings of class 0xE, the key skips (44_keys R170 to R172). -/

namespace Sys2Proof.Machine

/-- SKP Vx (R170). -/
def execSkp (x : RegIx) (s : State) : Outcome :=
  match s.keyIndex x with
  | some k => .next (s.skipIf (s.keyPressed k))
  | none => .next (s.raise .operandOutOfRange (encode (.skp x)) 0)

/-- SKNP Vx (R171). -/
def execSknp (x : RegIx) (s : State) : Outcome :=
  match s.keyIndex x with
  | some k => .next (s.skipIf (!s.keyPressed k))
  | none => .next (s.raise .operandOutOfRange (encode (.sknp x)) 0)

end Sys2Proof.Machine
end

