-- ==== Sys2Proof/Machine/Misc.lean ====
section
/-! DEFINITION. The meanings of class 0xF (45_misc R180 to R189). -/

namespace Sys2Proof.Machine

/-- LOAD Vx,DT (R180). -/
def execLdVxDt (x : RegIx) (s : State) : Outcome := .next (s.setReg x s.dt).advance

/-- WAITKEY Vx (R181): KL takes this STEP's snapshot, RS becomes AWAITING_KEY(x), and pc stays on the instruction. -/
def execLdVxK (x : RegIx) (s : State) : Outcome := .next ((s.rememberKeys.beginWait x).jump s.pc)

/-- LOAD DT,Vx (R182). -/
def execLdDtVx (x : RegIx) (s : State) : Outcome := .next (s.setDt (s.reg x)).advance

/-- LOAD ST,Vx (R183). -/
def execLdStVx (x : RegIx) (s : State) : Outcome := .next (s.setSt (s.reg x)).advance

/-- ADD I,Vx (R185): modulo 2^16, no mask to 12 bits and no flag. -/
def execAddIVx (x : RegIx) (s : State) : Outcome := .next (s.setI (s.i + zextByte (s.reg x))).advance

/-- FONT Vx (R186). -/
def execLdFVx (x : RegIx) (s : State) : Outcome :=
  match s.fontDigit x with
  | some d => .next (s.setI (glyphAddress s.cfg d)).advance
  | none => .next (s.raise .operandOutOfRange (encode (.ldFVx x)) 0)

/-- BCD Vx (R187): hundreds, tens and ones at I, I+1 and I+2. I is unchanged. -/
def execLdBVx (x : RegIx) (s : State) : Outcome :=
  .next (s.checked (s.addresses 3) (mayStore s.cfg) (encode (.ldBVx x))
    (s.storeBytes s.i.toNat (bcdDigits (s.reg x))).advance)

/-- STORE [I],V0..Vx (R188). I is unchanged. -/
def execLdMemVx (x : RegIx) (s : State) : Outcome :=
  .next (s.checked (s.addresses (x.val + 1)) (mayStore s.cfg) (encode (.ldMemVx x))
    (s.storeBytes s.i.toNat (s.regBlock x)).advance)

/-- LOAD V0..Vx,[I] (R189). I is unchanged. -/
def execLdVxMem (x : RegIx) (s : State) : Outcome :=
  .next (s.checked (s.addresses (x.val + 1)) mayRead (encode (.ldVxMem x))
    (s.setRegs (writeRegs s.v 0 (s.readBytes s.i.toNat (x.val + 1)))).advance)

end Sys2Proof.Machine
end

