-- ==== Sys2Proof/Machine/Driver.lean ====
section
/-! DEFINITION. The step driver (30_encoding R73), the key poll (44_keys R173), and the host's operations
(10_state R41; 60_exceptions R210; 70_reset R230 to R232). -/

namespace Sys2Proof.Machine

/-! ### Fetch -/

/-- "A fetch succeeds only if 0x200 <= pc <= 0xFFE and pc is even, or pc is odd with ALLOW_ODD_PC" (20_memory R57). -/
def fetchOk (c : Config) (pc : Word) : Bool :=
  decide (0x200 ≤ pc.toNat) && decide (pc.toNat ≤ 0xFFE) && (c.allowOddPc || pc.toNat % 2 == 0)

/-- `FetchWord(pc)`, big-endian (20_memory R52). -/
def State.fetchWord (s : State) : Word := wordOfBytes (s.readByte s.pc.toNat) (s.readByte (s.pc.toNat + 1))

/-! ### STEP -/

/-- The keys that end a wait at this poll: newly pressed ones in EDGE mode, any pressed one in LEVEL mode (R173,
R174). -/
def State.qualifies (s : State) (k : Fin 16) : Bool :=
  match s.cfg.keyWaitMode with
  | .edge => s.keyPressed k && !s.kl.getLsbD k.val
  | .level => s.keyPressed k

/-- `KeyPoll(r, KEYS)` (R173): the lowest qualifying key completes the wait, else KL takes the snapshot. -/
def State.keyPoll (s : State) (r : RegIx) : State :=
  match (List.finRange 16).find? s.qualifies with
  | none => s.rememberKeys.answer .waiting
  | some k => (s.endWait.setReg r (BitVec.ofNat 8 k.val)).advance

/-- One RUNNING cycle: the fetch check before anything else (R74), decode, then the instruction or UNKNOWN (R73). -/
def State.fetchExecute (s : State) : Outcome :=
  if fetchOk s.cfg s.pc then
    match decode s.cfg.strict59 s.fetchWord with
    | .instr i => exec i s
    | .unknown _ => .next (s.reportUnknown s.fetchWord)
  else .next (s.raise .addressOutOfRange 0 s.pc)

/-- STEP, chosen by RS (R73), in the order of R207. -/
def State.cycle (s : State) : Outcome :=
  match s.rs with
  | .halted => .next (s.answer .isHalted)
  | .awaitingKey r => .next (s.keyPoll r)
  | .running => s.fetchExecute

/-- The inputs of a STEP are taken in (10_state R42), and from now on LOAD is late (R232). -/
def State.latch (s : State) (keys : KeySet) (rnd : Byte) : State :=
  { s with keys := keys, rnd := rnd, loadable := false }

/-! ### RESET, LOAD and TICK -/

/-- RESET "whatever RS is" (R230). The parameters stay (R20), the host's later operations still come, and the counter
of free bytes goes on, so that none is drawn twice. -/
def State.doReset (s : State) : State := { State.resetWith s.cfg with ops := s.ops, draws := s.draws }

/-- LOAD(image) (R232): too large an image is a ProgramLoadError and changes nothing; a late LOAD is refused. -/
def State.doLoad (s : State) (image : List Byte) : Outcome :=
  if s.loadable then
    if 0xE00 < image.length then .next (s.answer .programLoadError)
    else .next ((s.storeBytes 0x200 image).answer .ok)
  else .refused .lateLoad

/-- One timer's tick: down by 1, never below 0 (R210). -/
def tickTimer (t : Byte) : Byte := if t = 0 then 0 else t - 1

/-- TICK (R210). -/
def State.doTick (s : State) : State :=
  match s.rs with
  | .halted => s.answer .none
  | .running | .awaitingKey _ => ((s.setDt (tickTimer s.dt)).setSt (tickTimer s.st)).answer .none

/-! ### The host's next operation -/

/-- The operations after the head of the queue. -/
def State.withOps (s : State) (rest : List HostOp) : State := { s with ops := rest }

/-- One more free random byte is used (log 3). -/
def State.countDraw (s : State) : State := { s with draws := s.draws + 1 }

/-- The operation at the head of the queue is run. Where the queue is empty the host issues a STEP without a key
state, so that every key is released (10_state R42), and with a random byte nobody has named (log 2, log 3). -/
def State.hostOperation (s : State) : Outcome :=
  match s.ops with
  | [] => (s.countDraw.latch 0 (Config.freeRandom s.draws)).cycle
  | .step keys rnd :: rest => ((s.withOps rest).latch keys rnd).cycle
  | .tick :: rest => .next (s.withOps rest).doTick
  | .reset :: rest => .next (s.withOps rest).doReset
  | .load image :: rest => (s.withOps rest).doLoad image

/-- An instance whose parameters break R8 or R37 is refused (R37; log 12). -/
def State.operation (s : State) : Outcome :=
  if s.cfg.wf then s.hostOperation else .refused .badConfiguration

/-! ### Placing one instruction -/

/-- Whether an operation is a STEP. -/
def HostOp.isStep : HostOp → Bool
  | .step _ _ => true
  | .reset | .load _ | .tick => false

/-- The machine made ready to fetch: RUNNING, at a fetchable pc, with a STEP next (log 16). -/
def State.readyToFetch (s : State) : State :=
  { s with
    rs := .running
    pc := if fetchOk s.cfg s.pc then s.pc else 0x200
    ops := s.ops.dropWhile fun op => !op.isStep }

/-- A word stored where the next STEP fetches (log 16). -/
def State.placeWord (s : State) (w : Word) : State :=
  s.readyToFetch.storeBytes s.readyToFetch.pc.toNat (bytesOfWord w)

end Sys2Proof.Machine
end

