-- ==== Sys2Proof/Machine/Step.lean ====
section
/-! DEFINITION. One step of the machine: one operation of the host (10_state R41). -/

namespace Sys2Proof.Machine

/-- The next operation of the host, which is a STEP where its queue names none (log 2). -/
def step (s : State) : Host.Outcome State Fault Refusal := s.operation

/-- `s` with a table row's instruction word where the next STEP fetches (log 16). -/
def State.withFetchWord (s : State) (nbits w : Nat) : State := s.placeWord (tableWord nbits w)

end Sys2Proof.Machine
end

