-- ==== Sys2Proof/Safety.lean ====
section
/-! DEFINITION. The terms claims use: the parts of the state and what a step keeps of them, how an instruction ends,
what it is for the next operation to be a STEP, and the invariant of a good machine. -/

namespace Sys2Proof.Machine

/-- The parts of the state. `inputs` is KEYS and RND of the STEP being run; `host` is the queue of operations, the
counter of free bytes and the LOAD window. -/
inductive Part where
  | regs | i | pc | sp | stack | dt | st | disp | mem | rs | kl | sr | cfg | inputs | host | result
deriving DecidableEq, Repr

/-- Two states agree on a part. Registers and memory are compared by reading each of them. -/
def Part.same : Part → State → State → Prop
  | .regs, s, t => ∀ k, t.reg k = s.reg k
  | .i, s, t => t.i = s.i
  | .pc, s, t => t.pc = s.pc
  | .sp, s, t => t.sp = s.sp
  | .stack, s, t => t.stack = s.stack
  | .dt, s, t => t.dt = s.dt
  | .st, s, t => t.st = s.st
  | .disp, s, t => t.disp = s.disp
  | .mem, s, t => ∀ a, t.readByte a = s.readByte a
  | .rs, s, t => t.rs = s.rs
  | .kl, s, t => t.kl = s.kl
  | .sr, s, t => t.sr = s.sr
  | .cfg, s, t => t.cfg = s.cfg
  | .inputs, s, t => t.keys = s.keys ∧ t.rnd = s.rnd
  | .host, s, t => t.ops = s.ops ∧ t.draws = s.draws ∧ t.loadable = s.loadable
  | .result, s, t => t.result = s.result

/-- The frame of a step: every part that is not listed is unchanged (92_eei_decisions D31). -/
def KeepsAllBut (written : List Part) (s t : State) : Prop := ∀ p, p ∉ written → p.same s t

/-- Every general register that is not listed is unchanged. -/
def KeepsRegsBut (written : List RegIx) (s t : State) : Prop := ∀ k, k ∉ written → t.reg k = s.reg k

/-- Every byte of memory outside the `n` bytes at `a` reads as before. -/
def KeepsBytesBut (a n : Nat) (s t : State) : Prop := ∀ b, (b < a ∨ a + n ≤ b) → t.readByte b = s.readByte b

/-- STEP returned OK with the next pc at a target. -/
def EndsAt (target : Word) (t : State) : Prop := t.pc = target ∧ t.result = .ok

/-- A fatal failure, as 60_exceptions R204 describes its effect: SR written, RS halted, the failure returned, and
nothing else changed, pc included. -/
def HaltsWith (code : BitVec 3) (w addr : Word) (s t : State) : Prop :=
  t.rs = .halted ∧ t.sr = ⟨code, w, s.pc, addr, s.sr.unk⟩ ∧ t.result = .fault code w s.pc addr ∧
    KeepsAllBut [.rs, .sr, .result] s t

/-- The host's next operation is a STEP, and `s'` is `s` with the STEP's inputs taken in: from the queue's head, or
with no key pressed and a free random byte where the queue is empty (log 2, log 3). -/
def TakesStep (s s' : State) : Prop :=
  (∃ keys rnd rest, s.ops = .step keys rnd :: rest ∧
      s' = { s with ops := rest, keys := keys, rnd := rnd, loadable := false }) ∨
    (s.ops = [] ∧
      s' = { s with draws := s.draws + 1, keys := 0, rnd := Config.freeRandom s.draws, loadable := false })

/-- What holds of every machine that started at RESET: the parameters are good; memory and display have their form;
pc is at most 0x10FE (10_state R26) and every stacked address at most 0x1000; a waiting machine stands on a fetchable
pc; SR.code is one of the fatal codes when HALTED, and 0 otherwise. -/
structure Inv (s : State) : Prop where
  cfg : s.cfg.wf = true
  mem : Memory.wf s.cfg s.mem
  disp : Display.wf s.cfg s.disp
  pc : s.pc.toNat ≤ 0x10FE
  stack : ∀ k : Fin 16, s.stack[k.val].toNat ≤ 0x1000
  waiting : ∀ r, s.rs = .awaitingKey r → fetchOk s.cfg s.pc = true
  halted : s.rs = .halted → s.sr.code ∈ [2, 3, 4, 5]
  clear : s.rs ≠ .halted → s.sr.code = 0

/-- A run of `n` operations on which no fatal failure occurs (60_exceptions R206: a halted machine is "a faulted
end"). -/
def SafeRun (n : Nat) (s : State) : Prop := ∃ t, Sys2Proof.core.run n s = .next t ∧ t.rs ≠ .halted

end Sys2Proof.Machine
end

