-- ==== Sys2Proof/Certificates/Slice0/Obligations.lean ====
section
/-! DEFINITION. The statements for the provers. -/

open Sys2Proof Sys2Proof.Machine

/-! ### Terms of the statements -/

namespace Sys2Proof.Claims

/-- A word is UNKNOWN under a setting of STRICT_5_9. -/
abbrev isUnknown (strict : Bool) (w : Word) : Bool :=
  match decode strict w with
  | .instr _ => false
  | .unknown _ => true

/-- The words 30_encoding R84 lists, by their bits. -/
def ListedUnknown (strict : Bool) (w : Word) : Prop :=
  (w &&& 0xF000 = 0x8000 ∧ (w &&& 0x000F).toNat ∈ [0x8, 0x9, 0xA, 0xB, 0xC, 0xD, 0xF]) ∨
  (w &&& 0xF000 = 0xE000 ∧ (w &&& 0x00FF).toNat ∉ [0x9E, 0xA1]) ∨
  (w &&& 0xF000 = 0xF000 ∧ (w &&& 0x00FF).toNat ∉ [0x07, 0x0A, 0x15, 0x18, 0x1E, 0x29, 0x33, 0x55, 0x65]) ∨
  (strict = true ∧ (w &&& 0xF000 = 0x5000 ∨ w &&& 0xF000 = 0x9000) ∧ w &&& 0x000F ≠ 0)

/-- The canonical spelling of a word: 5xyN and 9xyN as 5xy0 and 9xy0 (R81), every other word as it is. -/
def canonicalWord (w : Word) : Word :=
  if w &&& 0xF000 = 0x5000 ∨ w &&& 0xF000 = 0x9000 then w &&& 0xFFF0 else w

/-- The state holds the reset values of 10_state R47 under its parameters. -/
def HoldsResetValues (t : State) : Prop :=
  (∀ k, t.reg k = 0) ∧ t.i = 0 ∧ t.sp = 0 ∧ t.pc = 0x0200 ∧ (∀ k : Fin 16, t.stack[k.val] = 0) ∧ t.dt = 0 ∧
    t.st = 0 ∧ Display.wf t.cfg t.disp ∧ (∀ col row, t.disp.pixel col row = false) ∧ t.rs = .running ∧ t.kl = 0 ∧
    t.sr = ⟨0, 0, 0, 0, false⟩ ∧
    (∀ k : Fin 80, t.readByte (t.cfg.fontBase + k.val) = t.cfg.fontData[k.val]) ∧
    ∀ a, (a < t.cfg.fontBase ∨ t.cfg.fontBase + 80 ≤ a) → t.readByte a = 0

/-- Key `k` ends a wait at a STEP whose snapshot is `keys`, with KL as latched before (44_keys R173). -/
def Qualifies (mode : KeyWaitMode) (kl keys : KeySet) (k : Fin 16) : Prop :=
  keys.getLsbD k.val = true ∧ (mode = .edge → kl.getLsbD k.val = false)

/-- Each snapshot presses only keys that the one before it pressed too. -/
def NoNewPress : KeySet → List KeySet → Prop
  | _, [] => True
  | before, keys :: rest =>
    (∀ k, keys.getLsbD k = true → before.getLsbD k = true) ∧ NoNewPress keys rest

/-- The general registers an instruction may write (10_state R22, R23). -/
def writtenRegs : Instr → List RegIx
  | .ldImm x _ | .addImm x _ | .ldReg x _ | .or x _ | .and x _ | .xor x _ | .rnd x _ | .ldVxDt x => [x]
  | .addReg x _ | .sub x _ | .shr x _ | .subn x _ | .shl x _ => [x, vf]
  | .drw _ _ _ => [vf]
  | .ldVxMem x => (List.finRange 16).filter fun k => k ≤ x
  | .cls | .ret | .sys _ | .jpAddr _ | .call _ | .seImm _ _ | .sneImm _ _ | .seReg _ _ | .sneReg _ _ | .ldI _
  | .jpV0 _ | .skp _ | .sknp _ | .ldVxK _ | .ldDtVx _ | .ldStVx _ | .addIVx _ | .ldFVx _ | .ldBVx _ | .ldMemVx _ => []

/-- The parts of the state an instruction may write besides pc and the outcome it returns: what its rule writes, and
RS and SR where its rule can raise a fatal failure. -/
def writtenParts : Instr → List Part
  | .cls => [.disp]
  | .ret => [.sp, .rs, .sr]
  | .call _ => [.sp, .stack, .rs, .sr]
  | .sys _ | .jpAddr _ | .jpV0 _ | .seImm _ _ | .sneImm _ _ | .seReg _ _ | .sneReg _ _ => []
  | .ldImm _ _ | .addImm _ _ | .ldReg _ _ | .or _ _ | .and _ _ | .xor _ _ | .addReg _ _ | .sub _ _ | .shr _ _
  | .subn _ _ | .shl _ _ | .rnd _ _ | .ldVxDt _ => [.regs]
  | .ldI _ | .addIVx _ => [.i]
  | .ldFVx _ => [.i, .rs, .sr]
  | .drw _ _ _ => [.regs, .disp, .rs, .sr]
  | .skp _ | .sknp _ => [.rs, .sr]
  | .ldVxK _ => [.kl, .rs]
  | .ldDtVx _ => [.dt]
  | .ldStVx _ => [.st]
  | .ldBVx _ | .ldMemVx _ => [.mem, .rs, .sr]
  | .ldVxMem _ => [.regs, .rs, .sr]

/-- The plain advance: STEP returned OK and pc moved past the instruction (30_encoding R76). -/
def Advanced (s t : State) : Prop := EndsAt (s.pc + 2) t

/-- A skip: 4 bytes on if the condition holds, else the plain advance (R76). -/
def Skipped (c : Prop) (s t : State) : Prop := (c → EndsAt (s.pc + 4) t) ∧ (¬ c → EndsAt (s.pc + 2) t)

/-- The instruction wrote general registers only: `k` among those listed, with no other part of the state changed but
pc and the outcome. -/
def WroteRegs (ks : List RegIx) (s t : State) : Prop :=
  KeepsRegsBut ks s t ∧ KeepsAllBut [.regs, .pc, .result] s t

/-- The bit of a sprite at row `i` and column offset `j`: bit 7 of the byte at I + i is offset 0 (43_draw R152). -/
def spriteBit (s : State) (i j : Nat) : Bool := (s.readByte (s.i.toNat + i)).getLsbD (7 - j)

/-- How many set bits of a sprite of `n` rows land on a pixel, both coordinates wrapping (43_draw R153). -/
def spriteHits (s : State) (x y : RegIx) (n col row : Nat) : Nat :=
  ((List.range n).map fun i => (List.range 8).countP fun j =>
    spriteBit s i j && ((s.reg x).toNat % s.cfg.displayW + j) % s.cfg.displayW == col &&
      ((s.reg y).toNat % s.cfg.displayH + i) % s.cfg.displayH == row).sum

/-- Every address of an access of `n` bytes through I is inside memory (20_memory R56). -/
abbrev Readable (s : State) (n : Nat) : Prop := ∀ k < n, s.i.toNat + k < 0x1000

/-- Every address of a store of `n` bytes through I passes the two checks (20_memory R56, R58). -/
abbrev Storable (s : State) (n : Nat) : Prop :=
  ∀ k < n, s.i.toNat + k < 0x1000 ∧ (s.cfg.protectReserved = true → 0x200 ≤ s.i.toNat + k)

/-- `a` is the lowest address of an access of `n` bytes through I that fails a check (20_memory R59). -/
def LowestFailing (good : Nat → Prop) (s : State) (n a : Nat) : Prop :=
  ∃ k < n, a = s.i.toNat + k ∧ ¬ good a ∧ ∀ j < k, good (s.i.toNat + j)

/-- The value of V[x] names a key or a digit as 44_keys R172 and 45_misc R186 say. -/
abbrev Names (p : IndexPolicy) (b : Byte) (k : Nat) : Prop :=
  (b.toNat ≤ 0xF ∧ k = b.toNat) ∨ (0xF < b.toNat ∧ p = .lowNibble ∧ k = b.toNat % 16)

end Sys2Proof.Claims

open Sys2Proof.Claims

/-! ### Encoding -/

/-- R83, R75: every well-formed instruction is read back from its own word, under both settings of STRICT_5_9. -/
def Obligations.DecodeOfEncodeIsIdentity : Prop :=
  ∀ (strict : Bool) (i : Instr), i.wf = true → decode strict (encode i) = .instr i

/-- R88, R81: a word that decodes to an instruction is, but for the ignored low nibble of classes 5 and 9, the word of
that instruction, and the instruction is well formed. So no two instructions share a word. -/
def Obligations.DecodedWordsEncodeBack : Prop :=
  ∀ (strict : Bool) (w : Word) (i : Instr), decode strict w = .instr i → i.wf = true ∧ encode i = canonicalWord w

/-- R83, R81: the word of each of the 35 patterns, written as the sum of its nibbles, decodes to its instruction, for
every value of its operands; the low nibble of 5xyN and 9xyN may be any without STRICT_5_9, and 0 with it. -/
def Obligations.EveryPatternDecodesToItsInstruction : Prop :=
  ∀ (strict : Bool) (x y n : Fin 16) (kk : Byte) (nnn : Addr),
    let reads := fun (word : Nat) (i : Instr) => decode strict (BitVec.ofNat 16 word) = .instr i
    (reads 0x00E0 .cls ∧ reads 0x00EE .ret ∧ (nnn.toNat ∉ [0x0E0, 0x0EE] → reads nnn.toNat (.sys nnn)) ∧
      reads (0x1000 + nnn.toNat) (.jpAddr nnn) ∧ reads (0x2000 + nnn.toNat) (.call nnn) ∧
      reads (0x3000 + x.val * 0x100 + kk.toNat) (.seImm x kk) ∧
      reads (0x4000 + x.val * 0x100 + kk.toNat) (.sneImm x kk) ∧
      (strict = false ∨ n = 0 → reads (0x5000 + x.val * 0x100 + y.val * 0x10 + n.val) (.seReg x y)) ∧
      reads (0x6000 + x.val * 0x100 + kk.toNat) (.ldImm x kk) ∧
      reads (0x7000 + x.val * 0x100 + kk.toNat) (.addImm x kk)) ∧
    (reads (0x8000 + x.val * 0x100 + y.val * 0x10) (.ldReg x y) ∧
      reads (0x8001 + x.val * 0x100 + y.val * 0x10) (.or x y) ∧
      reads (0x8002 + x.val * 0x100 + y.val * 0x10) (.and x y) ∧
      reads (0x8003 + x.val * 0x100 + y.val * 0x10) (.xor x y) ∧
      reads (0x8004 + x.val * 0x100 + y.val * 0x10) (.addReg x y) ∧
      reads (0x8005 + x.val * 0x100 + y.val * 0x10) (.sub x y) ∧
      reads (0x8006 + x.val * 0x100 + y.val * 0x10) (.shr x y) ∧
      reads (0x8007 + x.val * 0x100 + y.val * 0x10) (.subn x y) ∧
      reads (0x800E + x.val * 0x100 + y.val * 0x10) (.shl x y)) ∧
    ((strict = false ∨ n = 0 → reads (0x9000 + x.val * 0x100 + y.val * 0x10 + n.val) (.sneReg x y)) ∧
      reads (0xA000 + nnn.toNat) (.ldI nnn) ∧ reads (0xB000 + nnn.toNat) (.jpV0 nnn) ∧
      reads (0xC000 + x.val * 0x100 + kk.toNat) (.rnd x kk) ∧
      reads (0xD000 + x.val * 0x100 + y.val * 0x10 + n.val) (.drw x y n) ∧
      reads (0xE09E + x.val * 0x100) (.skp x) ∧ reads (0xE0A1 + x.val * 0x100) (.sknp x)) ∧
    (reads (0xF007 + x.val * 0x100) (.ldVxDt x) ∧ reads (0xF00A + x.val * 0x100) (.ldVxK x) ∧
      reads (0xF015 + x.val * 0x100) (.ldDtVx x) ∧ reads (0xF018 + x.val * 0x100) (.ldStVx x) ∧
      reads (0xF01E + x.val * 0x100) (.addIVx x) ∧ reads (0xF029 + x.val * 0x100) (.ldFVx x) ∧
      reads (0xF033 + x.val * 0x100) (.ldBVx x) ∧ reads (0xF055 + x.val * 0x100) (.ldMemVx x) ∧
      reads (0xF065 + x.val * 0x100) (.ldVxMem x))

/-- R71: the fields are the masked and shifted bits of the word, they overlap as stated, and R72: the mask comes
before the shift. -/
def Obligations.FieldsAreMaskedThenShifted : Prop :=
  ∀ w : Word,
    (fields w).cls.val = ((w >>> 12) &&& 0xF).toNat ∧ (fields w).x.val = ((w &&& 0x0F00) >>> 8).toNat ∧
    (fields w).y.val = ((w &&& 0x00F0) >>> 4).toNat ∧ (fields w).n.val = (w &&& 0x000F).toNat ∧
    (fields w).kk.toNat = (w &&& 0x00FF).toNat ∧ (fields w).nnn.toNat = (w &&& 0x0FFF).toNat ∧
    (fields w).kk.toNat = (fields w).y.val * 16 + (fields w).n.val ∧
    (fields w).nnn.toNat = (fields w).x.val * 256 + (fields w).kk.toNat

/-- R84, which the spec derives from R75: the words that are UNKNOWN, under both settings of STRICT_5_9, and how many
there are. -/
def Obligations.UnknownWordsAreExactlyTheListedOnes : Prop :=
  (∀ (strict : Bool) (w : Word), isUnknown strict w = true ↔ ListedUnknown strict w) ∧
  (List.range 65536).countP (fun k => isUnknown false (BitVec.ofNat 16 k)) = 9808 ∧
  (List.range 65536).countP (fun k => isUnknown true (BitVec.ofNat 16 k)) = 17488

/-- Words written out from the encodings of R83, one for each format and class that has a selector. -/
def Obligations.WrittenWordsDecode : Prop :=
  decode false 0b0000000011100000#16 = .instr .cls ∧
  decode false 0b0001001000110100#16 = .instr (.jpAddr 0x234) ∧
  decode false 0b0011101001000010#16 = .instr (.seImm 0xA 0x42) ∧
  decode false 0b1000101010110100#16 = .instr (.addReg 0xA 0xB) ∧
  decode false 0b1101000000011111#16 = .instr (.drw 0 1 0xF) ∧
  decode false 0b1110000010011110#16 = .instr (.skp 0) ∧
  decode false 0b1111111101100101#16 = .instr (.ldVxMem 0xF) ∧
  decode false 0b0101000100100001#16 = .instr (.seReg 1 2) ∧
  decode true 0b0101000100100001#16 = .unknown (.strictLowNibble 1)

/-! ### The step driver -/

/-- R73: a RUNNING STEP whose fetch succeeds runs exactly the instruction its word decodes to, on the state with the
STEP's inputs taken in. How the inputs stand in the state is the model's own (log 2, log 3, log 4). -/
def Obligations.StepRunsTheDecodedInstruction : Prop :=
  ∀ (s s' : State) (i : Instr), s.cfg.wf = true → TakesStep s s' → s.rs = .running → fetchOk s.cfg s.pc = true →
    decode s.cfg.strict59 s.fetchWord = .instr i → step s = exec i s'

/-- R52: "the byte at pc supplies bits 15 to 8 and the byte at pc+1 supplies bits 7 to 0". -/
def Obligations.FetchIsBigEndian : Prop :=
  ∀ s : State, s.fetchWord.toNat = (s.readByte s.pc.toNat).toNat * 256 + (s.readByte (s.pc.toNat + 1)).toNat

/-- R57, R74: a pc outside 0x200 to 0xFFE, or odd without ALLOW_ODD_PC, halts the machine with AddressOutOfRange,
word 0 and the pc as the address; and any other pc does not. -/
def Obligations.BadFetchHalts : Prop :=
  (∀ s s' : State, s.cfg.wf = true → TakesStep s s' → s.rs = .running →
    ¬ (0x200 ≤ s.pc.toNat ∧ s.pc.toNat ≤ 0xFFE ∧ (s.pc.toNat % 2 = 0 ∨ s.cfg.allowOddPc = true)) →
    ∃ t, step s = .next t ∧ HaltsWith 4 0 s.pc s' t) ∧
  ∀ (c : Config) (pc : Word),
    (0x200 ≤ pc.toNat ∧ pc.toNat ≤ 0xFFE ∧ (pc.toNat % 2 = 0 ∨ c.allowOddPc = true)) → fetchOk c pc = true

/-- R202: an UNKNOWN word sets SR.UNK, moves pc past it, changes nothing else, and is reported. -/
def Obligations.UnknownOpcodeIsSkippedAndRecorded : Prop :=
  ∀ (s s' : State) (why : Unknown), s.cfg.wf = true → TakesStep s s' → s.rs = .running →
    fetchOk s.cfg s.pc = true → decode s.cfg.strict59 s.fetchWord = .unknown why →
    ∃ t, step s = .next t ∧ t.sr = { s.sr with unk := true } ∧ t.pc = s.pc + 2 ∧
      t.result = .unknown s.fetchWord s.pc ∧ KeepsAllBut [.sr, .pc, .result] s' t

/-- R205: while HALTED, STEP returns IS_HALTED and changes nothing, TICK changes nothing, and no operation but RESET
leaves HALTED. -/
def Obligations.HaltedLeavesOnlyByReset : Prop :=
  ∀ s : State, s.cfg.wf = true → s.rs = .halted →
    (∀ s', TakesStep s s' → ∃ t, step s = .next t ∧ t.result = .isHalted ∧ KeepsAllBut [.result] s' t) ∧
    (∀ rest, s.ops = .tick :: rest → ∃ t, step s = .next t ∧ KeepsAllBut [.result, .host] s t) ∧
    (∀ rest, s.ops = .reset :: rest → ∃ t, step s = .next t ∧ t.rs = .running) ∧
    ∀ t, step s = .next t → t.rs ≠ .halted → ∃ rest, s.ops = .reset :: rest

/-- R173: the poll. The lowest-numbered qualifying key completes the wait; with none, KL takes the snapshot and
nothing else changes. -/
def Obligations.PollTakesTheLowestQualifyingKey : Prop :=
  ∀ (s s' : State) (r : RegIx), s.cfg.wf = true → TakesStep s s' → s.rs = .awaitingKey r →
    (∀ k : Fin 16, Qualifies s.cfg.keyWaitMode s.kl s'.keys k →
      (∀ j, Qualifies s.cfg.keyWaitMode s.kl s'.keys j → k ≤ j) →
      ∃ t, step s = .next t ∧ (t.reg r).toNat = k.val ∧ t.pc = s.pc + 2 ∧ t.rs = .running ∧ t.result = .ok ∧
        KeepsRegsBut [r] s' t ∧ KeepsAllBut [.regs, .pc, .rs, .result] s' t) ∧
    ((∀ k : Fin 16, ¬ Qualifies s.cfg.keyWaitMode s.kl s'.keys k) →
      ∃ t, step s = .next t ∧ t.kl = s'.keys ∧ t.result = .waiting ∧ KeepsAllBut [.kl, .result] s' t)

/-- R174: in EDGE mode "a key held down when Fx0A runs must be released and pressed again before it counts": however
many STEPs come, as long as no snapshot presses a key that the one before it did not, the wait goes on. -/
def Obligations.HeldKeysNeverEndAnEdgeWait : Prop :=
  ∀ (snapshots : List KeySet) (rnd : Byte) (rest : List HostOp) (s : State) (r : RegIx), s.cfg.wf = true →
    s.cfg.keyWaitMode = .edge → s.rs = .awaitingKey r → NoNewPress s.kl snapshots →
    s.ops = (snapshots.map fun keys => HostOp.step keys rnd) ++ rest →
    ∃ t, Sys2Proof.core.run snapshots.length s = .next t ∧ t.rs = .awaitingKey r ∧
      KeepsAllBut [.kl, .inputs, .host, .result] s t

/-- R232: LOAD copies the image to 0x200 and leaves every other byte; an image of more than 0xE00 bytes is a
ProgramLoadError and changes nothing; a LOAD after a STEP is refused. -/
def Obligations.LoadPlacesTheImage : Prop :=
  ∀ (s : State) (image : List Byte) (rest : List HostOp), s.cfg.wf = true → s.ops = .load image :: rest →
    (s.loadable = true → image.length ≤ 0xE00 → Memory.wf s.cfg s.mem →
      ∃ t, step s = .next t ∧ t.result = .ok ∧
        (∀ k (h : k < image.length), t.readByte (0x200 + k) = image[k]) ∧
        KeepsBytesBut 0x200 image.length s t ∧ KeepsAllBut [.mem, .result, .host] s t) ∧
    (s.loadable = true → 0xE00 < image.length →
      ∃ t, step s = .next t ∧ t.result = .programLoadError ∧ KeepsAllBut [.result, .host] s t) ∧
    (s.loadable = false → step s = .refused .lateLoad)

/-- R232: "The host may issue LOAD only after RESET and before the first STEP that follows it". That `loadable` records
this, and that a LOAD or a TICK before that STEP leaves it, is the model's own (log 11). -/
def Obligations.LoadIsAllowedUntilTheFirstStep : Prop :=
  ∀ s t : State, step s = .next t →
    (∀ rest, s.ops = .reset :: rest → t.loadable = true) ∧ (∀ s', TakesStep s s' → t.loadable = false) ∧
      (∀ rest, s.ops = .tick :: rest → t.loadable = s.loadable) ∧
      ∀ image rest, s.ops = .load image :: rest → t.loadable = s.loadable

/-- R230, R231, R47: RESET, whatever the state, gives every state element its reset value, with the font installed and
every other byte of memory 0. -/
def Obligations.ResetGivesTheResetValues : Prop :=
  ∀ (s : State) (rest : List HostOp), s.cfg.wf = true → s.ops = .reset :: rest →
    ∃ t, step s = .next t ∧ HoldsResetValues t ∧ t.cfg = s.cfg

/-- R47, R233: the state the model starts in holds the reset values, under the defaults of R8. -/
def Obligations.StartStateHoldsTheResetValues : Prop :=
  HoldsResetValues State.reset ∧ State.reset.cfg = Config.default ∧ Config.default.wf = true

/-- R210: a TICK takes each timer down by 1, never below 0, in RUNNING and in AWAITING_KEY, and leaves both while
HALTED; it changes no other state. -/
def Obligations.TickDecrementsBothTimers : Prop :=
  ∀ (s : State) (rest : List HostOp), s.cfg.wf = true → s.ops = .tick :: rest →
    ∃ t, step s = .next t ∧ (s.rs ≠ .halted → t.dt.toNat = s.dt.toNat - 1 ∧ t.st.toNat = s.st.toNat - 1) ∧
      (s.rs = .halted → t.dt = s.dt ∧ t.st = s.st) ∧ KeepsAllBut [.dt, .st, .result, .host] s t

/-- R211: "a timer set to v reaches 0 after exactly v TICKs with no intervening write, and stays 0 from then on": after
`n` TICKs a timer that held `v` holds `v - n`, and 0 where `v` is at most `n`. -/
def Obligations.TimersReachZeroAndStay : Prop :=
  ∀ (n : Nat) (rest : List HostOp) (s : State), s.cfg.wf = true → s.rs ≠ .halted →
    s.ops = List.replicate n .tick ++ rest →
    ∃ t, Sys2Proof.core.run n s = .next t ∧ t.dt.toNat = s.dt.toNat - n ∧ t.st.toNat = s.st.toNat - n ∧
      t.ops = rest ∧ KeepsAllBut [.dt, .st, .result, .host] s t

/-- R211: "only Fx15 or Fx18 can raise it": if a step leaves a timer higher than it was, the step ran Fx15 or Fx18 for
that timer. -/
def Obligations.OnlyTimerLoadsRaiseATimer : Prop :=
  ∀ s t : State, step s = .next t →
    (s.dt.toNat < t.dt.toNat → ∃ x, s.rs = .running ∧ decode s.cfg.strict59 s.fetchWord = .instr (.ldDtVx x)) ∧
    (s.st.toNat < t.st.toNat → ∃ x, s.rs = .running ∧ decode s.cfg.strict59 s.fetchWord = .instr (.ldStVx x))

/-- R37: an instance whose font leaves the reserved region is refused; and so, by the model's choice (log 12), is one
whose display has no pixel, against R8. -/
def Obligations.BadConfigurationIsRefused : Prop :=
  ∀ s : State, (s.cfg.displayW = 0 ∨ s.cfg.displayH = 0 ∨ 0x200 < s.cfg.fontBase + 80) →
    step s = .refused .badConfiguration

/-! ### The whole machine -/

/-- The invariant of Safety.lean, R26's bound on pc and the canonical form of memory among it, is kept by every step
from every state that meets it. -/
def Obligations.StepKeepsTheInvariant : Prop := ∀ s t : State, Inv s → step s = .next t → Inv t

/-- The invariant holds right after reset. -/
def Obligations.ResetMeetsTheInvariant : Prop := Inv State.reset

/-- R204, R208: if a RUNNING step leaves the machine HALTED, nothing but RS, SR and the outcome has changed: SR holds
a fatal code, the fetched word, or 0 for a failed fetch, and the pc, which still stands on the instruction. -/
def Obligations.FatalFailuresArePrecise : Prop :=
  ∀ s s' t : State, s.cfg.wf = true → TakesStep s s' → s.rs = .running → step s = .next t → t.rs = .halted →
    (fetchOk s.cfg s.pc = false ∧ HaltsWith 4 0 s.pc s' t) ∨
    (fetchOk s.cfg s.pc = true ∧ ∃ code addr, code ∈ [2, 3, 4, 5] ∧ HaltsWith code s.fetchWord addr s' t)

/-- R43, R85: every instruction with every operand answers a next state on every state, and STEP returns OK, or the
failure of a machine that is now HALTED. -/
def Obligations.EveryInstructionAnswersANextState : Prop :=
  ∀ (i : Instr) (s : State), ∃ t, exec i s = .next t ∧
    (t.result = .ok ∨ (t.rs = .halted ∧ ∃ code word addr, t.result = .fault code word s.pc addr))

/-- R22, R23: a general register changes only where the two rules say it is written, VF among them. -/
def Obligations.RegistersChangeOnlyWhereWritten : Prop :=
  ∀ (i : Instr) (s t : State), exec i s = .next t → KeepsRegsBut (writtenRegs i) s t

/-- Every part of the state an instruction's rule does not name is unchanged: the display changes only by 00E0 and
Dxyn, the stack only by 2nnn and 00EE, memory only by Fx33 and Fx55, I only by Annn, Fx1E and Fx29. -/
def Obligations.PartsChangeOnlyWhereWritten : Prop :=
  ∀ (i : Instr) (s t : State), exec i s = .next t → KeepsAllBut (.pc :: .result :: writtenParts i) s t

/-- R20: the parameters "are fixed for the life of the instance". Where they stand is the model's own (log 1). -/
def Obligations.ParametersNeverChange : Prop := ∀ s t : State, step s = .next t → t.cfg = s.cfg

/-! ### Classes 0x0 to 0x7 -/

/-- R100: CLS turns every pixel off and changes nothing else. -/
def Obligations.ClsClearsTheDisplay : Prop :=
  ∀ s : State, ∃ t, exec .cls s = .next t ∧ (∀ col row, t.disp.pixel col row = false) ∧
    Display.wf s.cfg t.disp ∧ Advanced s t ∧ KeepsAllBut [.disp, .pc, .result] s t

/-- R101: RET sets pc to the most recent return address and SP down by 1, the slot keeping its value; with nothing
pushed it halts with StackUnderflow. -/
def Obligations.RetPopsTheReturnAddress : Prop :=
  ∀ s : State,
    (∀ h : 0 < s.sp.val, ∃ t, exec .ret s = .next t ∧ EndsAt (s.stack[s.sp.val - 1]) t ∧
      t.sp.val = s.sp.val - 1 ∧ KeepsAllBut [.sp, .pc, .result] s t) ∧
    (s.sp.val = 0 → ∃ t, exec .ret s = .next t ∧ HaltsWith 3 0x00EE 0 s t)

/-- R102: SYS changes only pc, whatever nnn is. -/
def Obligations.SysOnlyAdvances : Prop :=
  ∀ (nnn : Addr) (s : State), ∃ t, exec (.sys nnn) s = .next t ∧ Advanced s t ∧ KeepsAllBut [.pc, .result] s t

/-- R103 and R142: JMP sets pc to nnn, and JMP V0+addr to the exact sum V0 + nnn, which is not masked. -/
def Obligations.JumpsSetThePc : Prop :=
  ∀ (nnn : Addr) (s : State),
    (∃ t, exec (.jpAddr nnn) s = .next t ∧ t.pc.toNat = nnn.toNat ∧ t.result = .ok ∧ KeepsAllBut [.pc, .result] s t) ∧
    ∃ t, exec (.jpV0 nnn) s = .next t ∧ t.pc.toNat = (s.reg 0).toNat + nnn.toNat ∧ t.result = .ok ∧
      KeepsAllBut [.pc, .result] s t

/-- R104: CALL pushes the address of the next instruction and jumps; with 16 addresses pushed it halts with
StackOverflow. -/
def Obligations.CallPushesTheReturnAddress : Prop :=
  ∀ (nnn : Addr) (s : State),
    (s.sp.val < 16 → ∃ t, exec (.call nnn) s = .next t ∧ t.pc.toNat = nnn.toNat ∧ t.result = .ok ∧
      t.sp.val = s.sp.val + 1 ∧
      (∀ k : Fin 16, t.stack[k.val] = if k.val = s.sp.val then s.pc + 2 else s.stack[k.val]) ∧
      KeepsAllBut [.sp, .stack, .pc, .result] s t) ∧
    (s.sp.val = 16 → ∃ t w, exec (.call nnn) s = .next t ∧ w.toNat = 0x2000 + nnn.toNat ∧ HaltsWith 2 w 0 s t)

/-- R104 and R101: whatever runs between them, a CALL and the RET that finds its stack as the CALL left it restore pc
to the instruction after the CALL, and SP. -/
def Obligations.RetAfterCallReturns : Prop :=
  ∀ (nnn : Addr) (s t u : State), s.sp.val < 16 → exec (.call nnn) s = .next t → u.sp = t.sp → u.stack = t.stack →
    ∃ r, exec .ret u = .next r ∧ r.pc = s.pc + 2 ∧ r.sp = s.sp

/-- R105 and R106: the skips on an immediate write pc only. -/
def Obligations.ImmediateSkips : Prop :=
  ∀ (x : RegIx) (kk : Byte) (s : State),
    (∃ t, exec (.seImm x kk) s = .next t ∧ Skipped (s.reg x = kk) s t ∧ KeepsAllBut [.pc, .result] s t) ∧
    ∃ t, exec (.sneImm x kk) s = .next t ∧ Skipped (s.reg x ≠ kk) s t ∧ KeepsAllBut [.pc, .result] s t

/-- R107 and R140: the skips on two registers write pc only; with x = y the first always skips and the second never. -/
def Obligations.RegisterSkips : Prop :=
  ∀ (x y : RegIx) (s : State),
    (∃ t, exec (.seReg x y) s = .next t ∧ Skipped (s.reg x = s.reg y) s t ∧ KeepsAllBut [.pc, .result] s t ∧
      (x = y → t.pc = s.pc + 4)) ∧
    ∃ t, exec (.sneReg x y) s = .next t ∧ Skipped (s.reg x ≠ s.reg y) s t ∧ KeepsAllBut [.pc, .result] s t ∧
      (x = y → t.pc = s.pc + 2)

/-- R108 and R109: load immediate, and add immediate modulo 256 with no flag, VF as a destination included. -/
def Obligations.ImmediateLoadAndAdd : Prop :=
  ∀ (x : RegIx) (kk : Byte) (s : State),
    (∃ t, exec (.ldImm x kk) s = .next t ∧ t.reg x = kk ∧ Advanced s t ∧ WroteRegs [x] s t) ∧
    ∃ t, exec (.addImm x kk) s = .next t ∧ (t.reg x).toNat = ((s.reg x).toNat + kk.toNat) % 256 ∧ Advanced s t ∧
      WroteRegs [x] s t

/-! ### Class 0x8 -/

/-- R120: the register copy writes V[x] only. -/
def Obligations.CopyWritesVx : Prop :=
  ∀ (x y : RegIx) (s : State), ∃ t, exec (.ldReg x y) s = .next t ∧ t.reg x = s.reg y ∧ Advanced s t ∧
    WroteRegs [x] s t

/-- R121, R122, R123 and R131: the logical sub-ops, bit by bit, write V[x] only, so that VF is unchanged unless
x = 0xF. -/
def Obligations.LogicWritesVxOnly : Prop :=
  ∀ (x y : RegIx) (s : State),
    (∃ t, exec (.or x y) s = .next t ∧
      (∀ k, (t.reg x).getLsbD k = ((s.reg x).getLsbD k || (s.reg y).getLsbD k)) ∧ Advanced s t ∧ WroteRegs [x] s t) ∧
    (∃ t, exec (.and x y) s = .next t ∧
      (∀ k, (t.reg x).getLsbD k = ((s.reg x).getLsbD k && (s.reg y).getLsbD k)) ∧ Advanced s t ∧ WroteRegs [x] s t) ∧
    ∃ t, exec (.xor x y) s = .next t ∧
      (∀ k, (t.reg x).getLsbD k = ((s.reg x).getLsbD k ^^ (s.reg y).getLsbD k)) ∧ Advanced s t ∧ WroteRegs [x] s t

/-- R124: V[x] is the sum modulo 256 unless it is VF, and VF ends as the carry in every case. -/
def Obligations.AddSetsTheCarry : Prop :=
  ∀ (x y : RegIx) (s : State), ∃ t, exec (.addReg x y) s = .next t ∧
    (x ≠ vf → (t.reg x).toNat = ((s.reg x).toNat + (s.reg y).toNat) % 256) ∧
    (t.reg vf).toNat = (if 255 < (s.reg x).toNat + (s.reg y).toNat then 1 else 0) ∧
    Advanced s t ∧ WroteRegs [x, vf] s t

/-- R125: V[x] is the difference modulo 256 unless it is VF, and VF ends as the no-borrow flag, 1 on equal operands. -/
def Obligations.SubSetsNoBorrow : Prop :=
  ∀ (x y : RegIx) (s : State), ∃ t, exec (.sub x y) s = .next t ∧
    (x ≠ vf → (t.reg x).toNat = ((s.reg x).toNat + 256 - (s.reg y).toNat) % 256) ∧
    (t.reg vf).toNat = (if (s.reg y).toNat ≤ (s.reg x).toNat then 1 else 0) ∧
    Advanced s t ∧ WroteRegs [x, vf] s t

/-- R126: the logical shift right, whose source is V[x] whatever y is. With x = 0xF, VF ends as the shifted value: of
V[x] under PRE, and 0 under SEQ. -/
def Obligations.ShrShiftsOutTheLowBit : Prop :=
  ∀ (x y : RegIx) (s : State), ∃ t, exec (.shr x y) s = .next t ∧
    (x ≠ vf → (t.reg x).toNat = (s.reg x).toNat / 2 ∧ (t.reg vf).toNat = (s.reg x).toNat % 2) ∧
    (x = vf → (t.reg vf).toNat = if s.cfg.operandOrder = .pre then (s.reg x).toNat / 2 else 0) ∧
    Advanced s t ∧ WroteRegs [x, vf] s t

/-- R127: V[y] - V[x] modulo 256 and the strict flag, in all the cases of R127's corner cases: under PRE from the
operands before the instruction; under SEQ with VF read after it was written. -/
def Obligations.SubnSetsTheStrictFlag : Prop :=
  ∀ (x y : RegIx) (s : State), ∃ t f, exec (.subn x y) s = .next t ∧
    f = (if (s.reg x).toNat < (s.reg y).toNat then 1 else 0) ∧
    (x ≠ vf → (t.reg vf).toNat = f) ∧
    (s.cfg.operandOrder = .pre → (t.reg x).toNat = ((s.reg y).toNat + 256 - (s.reg x).toNat) % 256) ∧
    (s.cfg.operandOrder = .seq →
      (x ≠ vf → y ≠ vf → (t.reg x).toNat = ((s.reg y).toNat + 256 - (s.reg x).toNat) % 256) ∧
      (x ≠ vf → y = vf → (t.reg x).toNat = (f + 256 - (s.reg x).toNat) % 256) ∧
      (x = vf → y ≠ vf → (t.reg vf).toNat = ((s.reg y).toNat + 256 - f) % 256) ∧
      (x = vf → y = vf → (t.reg vf).toNat = 0)) ∧
    Advanced s t ∧ WroteRegs [x, vf] s t

/-- R128: the logical shift left, whose source is V[x] whatever y is. With x = 0xF, VF ends as the shifted value: of
V[x] under PRE, and of its bit 7 under SEQ. -/
def Obligations.ShlShiftsOutTheHighBit : Prop :=
  ∀ (x y : RegIx) (s : State), ∃ t, exec (.shl x y) s = .next t ∧
    (x ≠ vf → (t.reg x).toNat = (s.reg x).toNat * 2 % 256 ∧ (t.reg vf).toNat = (s.reg x).toNat / 128) ∧
    (x = vf → (t.reg vf).toNat =
      if s.cfg.operandOrder = .pre then (s.reg x).toNat * 2 % 256 else (s.reg x).toNat / 128 * 2) ∧
    Advanced s t ∧ WroteRegs [x, vf] s t

/-! ### Classes 0x9 to 0xC -/

/-- R141 and R185: LOAD I,addr takes the 12-bit address; ADD I,Vx wraps at 16 bits, is not masked to 12, and writes no
flag. -/
def Obligations.AddressRegisterWrites : Prop :=
  ∀ (nnn : Addr) (x : RegIx) (s : State),
    (∃ t, exec (.ldI nnn) s = .next t ∧ t.i.toNat = nnn.toNat ∧ Advanced s t ∧ KeepsAllBut [.i, .pc, .result] s t) ∧
    ∃ t, exec (.addIVx x) s = .next t ∧ t.i.toNat = (s.i.toNat + (s.reg x).toNat) % 65536 ∧ Advanced s t ∧
      KeepsAllBut [.i, .pc, .result] s t

/-- R143: RND writes the STEP's random byte under the mask, for every byte the host can supply, and always 0 under the
mask 0. -/
def Obligations.RndIsMaskedByTheImmediate : Prop :=
  ∀ (x : RegIx) (kk : Byte) (s : State), ∃ t, exec (.rnd x kk) s = .next t ∧
    (∀ k, (t.reg x).getLsbD k = (s.rnd.getLsbD k && kk.getLsbD k)) ∧ (kk = 0 → t.reg x = 0) ∧ Advanced s t ∧
    WroteRegs [x] s t

/-! ### Class 0xD -/

/-- R150 with R151 to R154 and R156: DRAW inverts a pixel once for each set sprite bit that lands on it, and VF is 1
exactly when some pixel went from on to off: it was on and was hit, or it was hit twice. -/
def Obligations.DrawInvertsThePixelsItHits : Prop :=
  ∀ (x y : RegIx) (n : Fin 16) (s : State), s.cfg.wf = true → Display.wf s.cfg s.disp → Readable s n.val →
    ∃ t, exec (.drw x y n) s = .next t ∧
      (∀ col < s.cfg.displayW, ∀ row < s.cfg.displayH,
        t.disp.pixel col row = (s.disp.pixel col row ^^ (spriteHits s x y n.val col row % 2 == 1))) ∧
      ((∃ col < s.cfg.displayW, ∃ row < s.cfg.displayH, 0 < spriteHits s x y n.val col row ∧
          (s.disp.pixel col row = true ∨ 1 < spriteHits s x y n.val col row)) → t.reg vf = 1) ∧
      ((¬ ∃ col < s.cfg.displayW, ∃ row < s.cfg.displayH, 0 < spriteHits s x y n.val col row ∧
          (s.disp.pixel col row = true ∨ 1 < spriteHits s x y n.val col row)) → t.reg vf = 0) ∧
      Display.wf s.cfg t.disp ∧ Advanced s t ∧ KeepsRegsBut [vf] s t ∧
      KeepsAllBut [.regs, .disp, .pc, .result] s t

/-- R155: a sprite row beyond memory halts DRAW with the lowest such address, VF and the display unchanged; with n = 0
DRAW does not fail whatever I is. -/
def Obligations.DrawChecksItsRows : Prop :=
  ∀ (x y : RegIx) (n : Fin 16) (s : State),
    (∀ a, LowestFailing (· < 0x1000) s n.val a →
      ∃ t w addr, exec (.drw x y n) s = .next t ∧ addr.toNat = a ∧
        w.toNat = 0xD000 + x.val * 0x100 + y.val * 0x10 + n.val ∧ HaltsWith 4 w addr s t) ∧
    (n = 0 → ∃ t, exec (.drw x y n) s = .next t ∧ t.disp = s.disp ∧ t.reg vf = 0 ∧ Advanced s t)

/-- R158, which the spec derives from R153 and R154: two DRAWs of the same sprite bytes at the same origin, with no change to the display between them, restore
the display; and where the sprite does not overlap itself, the second sets VF exactly when some pixel under a set bit
was off before the first. -/
def Obligations.DrawTwiceRestoresTheDisplay : Prop :=
  ∀ (x y x2 y2 : RegIx) (n : Fin 16) (s t s2 u : State), Readable s n.val → Readable s2 n.val →
    exec (.drw x y n) s = .next t → s2.cfg = s.cfg → s2.disp = t.disp →
    (s2.reg x2).toNat % s.cfg.displayW = (s.reg x).toNat % s.cfg.displayW →
    (s2.reg y2).toNat % s.cfg.displayH = (s.reg y).toNat % s.cfg.displayH →
    (∀ i < n.val, s2.readByte (s2.i.toNat + i) = s.readByte (s.i.toNat + i)) →
    exec (.drw x2 y2 n) s2 = .next u →
    u.disp = s.disp ∧
    (Display.wf s.cfg s.disp → 8 ≤ s.cfg.displayW → n.val ≤ s.cfg.displayH → s.cfg.wf = true →
      (u.reg vf = 1 ↔ ∃ i < n.val, ∃ j < 8, spriteBit s i j = true ∧
        s.disp.pixel (((s.reg x).toNat % s.cfg.displayW + j) % s.cfg.displayW)
          (((s.reg y).toNat % s.cfg.displayH + i) % s.cfg.displayH) = false))

/-! ### Class 0xE -/

/-- R170, R171 and R172: the key skips read the key that V[x] names in this STEP's snapshot and write pc only; a value
above 0xF halts under the `fault` policy. -/
def Obligations.KeySkipsReadTheSnapshot : Prop :=
  ∀ (x : RegIx) (s : State),
    (∀ k, Names s.cfg.keyIndexPolicy (s.reg x) k →
      (∃ t, exec (.skp x) s = .next t ∧ Skipped (s.keys.getLsbD k = true) s t ∧ KeepsAllBut [.pc, .result] s t) ∧
      ∃ t, exec (.sknp x) s = .next t ∧ Skipped (s.keys.getLsbD k = false) s t ∧ KeepsAllBut [.pc, .result] s t) ∧
    (0xF < (s.reg x).toNat → s.cfg.keyIndexPolicy = .fault →
      (∃ t w, exec (.skp x) s = .next t ∧ w.toNat = 0xE09E + x.val * 0x100 ∧ HaltsWith 5 w 0 s t) ∧
      ∃ t w, exec (.sknp x) s = .next t ∧ w.toNat = 0xE0A1 + x.val * 0x100 ∧ HaltsWith 5 w 0 s t)

/-! ### Class 0xF -/

/-- R180, R182 and R183: the timers are read and set by V[x], and R33: a timer is active exactly when it is not 0. -/
def Obligations.TimerRegisterTransfers : Prop :=
  ∀ (x : RegIx) (s : State),
    (∃ t, exec (.ldVxDt x) s = .next t ∧ t.reg x = s.dt ∧ Advanced s t ∧ WroteRegs [x] s t) ∧
    (∃ t, exec (.ldDtVx x) s = .next t ∧ t.dt = s.reg x ∧ (t.delayActive = true ↔ s.reg x ≠ 0) ∧ Advanced s t ∧
      KeepsAllBut [.dt, .pc, .result] s t) ∧
    ∃ t, exec (.ldStVx x) s = .next t ∧ t.st = s.reg x ∧ (t.soundActive = true ↔ s.reg x ≠ 0) ∧ Advanced s t ∧
      KeepsAllBut [.st, .pc, .result] s t

/-- R181: WAITKEY takes this STEP's snapshot into KL and begins the wait, with pc still on the instruction. -/
def Obligations.WaitKeyBeginsTheWait : Prop :=
  ∀ (x : RegIx) (s : State), ∃ t, exec (.ldVxK x) s = .next t ∧ t.kl = s.keys ∧ t.rs = .awaitingKey x ∧
    t.pc = s.pc ∧ t.result = .ok ∧ KeepsAllBut [.kl, .rs, .result] s t

/-- R186: FONT points I at the glyph of the digit V[x] names, under good parameters; a value above 0xF halts under the
`fault` policy. -/
def Obligations.FontPointsAtTheGlyph : Prop :=
  ∀ (x : RegIx) (s : State), s.cfg.wf = true →
    (∀ d, Names s.cfg.fontDigitPolicy (s.reg x) d →
      ∃ t, exec (.ldFVx x) s = .next t ∧ t.i.toNat = s.cfg.fontBase + 5 * d ∧ Advanced s t ∧
        KeepsAllBut [.i, .pc, .result] s t) ∧
    (0xF < (s.reg x).toNat → s.cfg.fontDigitPolicy = .fault →
      ∃ t w, exec (.ldFVx x) s = .next t ∧ w.toNat = 0xF029 + x.val * 0x100 ∧ HaltsWith 5 w 0 s t)

/-- R187 with R56, R58 and R59: BCD stores the three digits at I, I+1 and I+2 and leaves every other byte and I; the
lowest address that fails a check halts it with nothing stored. -/
def Obligations.BcdStoresTheDigits : Prop :=
  ∀ (x : RegIx) (s : State), Memory.wf s.cfg s.mem →
    (Storable s 3 → ∃ t, exec (.ldBVx x) s = .next t ∧
      (t.readByte s.i.toNat).toNat = (s.reg x).toNat / 100 ∧
      (t.readByte (s.i.toNat + 1)).toNat = (s.reg x).toNat / 10 % 10 ∧
      (t.readByte (s.i.toNat + 2)).toNat = (s.reg x).toNat % 10 ∧
      KeepsBytesBut s.i.toNat 3 s t ∧ Memory.wf s.cfg t.mem ∧ Advanced s t ∧
      KeepsAllBut [.mem, .pc, .result] s t) ∧
    (∀ a, LowestFailing (fun a => a < 0x1000 ∧ (s.cfg.protectReserved = true → 0x200 ≤ a)) s 3 a →
      ∃ t w addr, exec (.ldBVx x) s = .next t ∧ addr.toNat = a ∧ w.toNat = 0xF033 + x.val * 0x100 ∧
        HaltsWith 4 w addr s t)

/-- R188 with R56, R58 and R59: STORE puts V0 to V[x] at I and up and leaves every other byte and I; the lowest
address that fails a check halts it with nothing stored. -/
def Obligations.BlockStoreWritesV0ToVx : Prop :=
  ∀ (x : RegIx) (s : State), Memory.wf s.cfg s.mem →
    (Storable s (x.val + 1) → ∃ t, exec (.ldMemVx x) s = .next t ∧
      (∀ k : RegIx, k ≤ x → t.readByte (s.i.toNat + k.val) = s.reg k) ∧
      KeepsBytesBut s.i.toNat (x.val + 1) s t ∧ Memory.wf s.cfg t.mem ∧ Advanced s t ∧
      KeepsAllBut [.mem, .pc, .result] s t) ∧
    (∀ a, LowestFailing (fun a => a < 0x1000 ∧ (s.cfg.protectReserved = true → 0x200 ≤ a)) s (x.val + 1) a →
      ∃ t w addr, exec (.ldMemVx x) s = .next t ∧ addr.toNat = a ∧ w.toNat = 0xF055 + x.val * 0x100 ∧
        HaltsWith 4 w addr s t)

/-- R189 with R56 and R59: LOAD takes V0 to V[x] from I and up and leaves the other registers, memory and I; the
lowest address beyond memory halts it with no register written. -/
def Obligations.BlockLoadReadsV0ToVx : Prop :=
  ∀ (x : RegIx) (s : State),
    (Readable s (x.val + 1) → ∃ t, exec (.ldVxMem x) s = .next t ∧
      (∀ k : RegIx, k ≤ x → t.reg k = s.readByte (s.i.toNat + k.val)) ∧
      (∀ k : RegIx, x < k → t.reg k = s.reg k) ∧ Advanced s t ∧ KeepsAllBut [.regs, .pc, .result] s t) ∧
    (∀ a, LowestFailing (· < 0x1000) s (x.val + 1) a →
      ∃ t w addr, exec (.ldVxMem x) s = .next t ∧ addr.toNat = a ∧ w.toNat = 0xF065 + x.val * 0x100 ∧
        HaltsWith 4 w addr s t)

/-- R188 and R189: a block stored and then loaded again at the same I gives the same registers. -/
def Obligations.LoadAfterStoreGivesTheRegistersBack : Prop :=
  ∀ (x : RegIx) (s t u r : State), Memory.wf s.cfg s.mem → Storable s (x.val + 1) → exec (.ldMemVx x) s = .next t →
    u.mem = t.mem → u.cfg = t.cfg → u.i = s.i → exec (.ldVxMem x) u = .next r → ∀ k : RegIx, k ≤ x → r.reg k = s.reg k

/-- R63: a store is seen by the next fetch: where pc stands on two stored bytes, the fetched word is those bytes. -/
def Obligations.StoredCodeIsFetched : Prop :=
  ∀ (x : RegIx) (s t u : State) (k j : RegIx), j.val = k.val + 1 → j ≤ x → Memory.wf s.cfg s.mem →
    Storable s (x.val + 1) → exec (.ldMemVx x) s = .next t → u.mem = t.mem → u.cfg = t.cfg →
    u.pc.toNat = s.i.toNat + k.val → u.fetchWord.toNat = (s.reg k).toNat * 256 + (s.reg j).toNat
end

