-- ==== Sys2Proof/Laws/State.lean ====
section
/-! SUPPORT. One lemma per field per named update of the state, so that no later proof unfolds a record update. -/

namespace Sys2Proof.Machine

variable (s : State)

/-! ### State.setRegs -/

@[simp] theorem State.setRegs_v (w : Vector Byte 16) : (s.setRegs w).v = w := rfl
@[simp] theorem State.setRegs_i (w : Vector Byte 16) : (s.setRegs w).i = s.i := rfl
@[simp] theorem State.setRegs_pc (w : Vector Byte 16) : (s.setRegs w).pc = s.pc := rfl
@[simp] theorem State.setRegs_sp (w : Vector Byte 16) : (s.setRegs w).sp = s.sp := rfl
@[simp] theorem State.setRegs_stack (w : Vector Byte 16) : (s.setRegs w).stack = s.stack := rfl
@[simp] theorem State.setRegs_dt (w : Vector Byte 16) : (s.setRegs w).dt = s.dt := rfl
@[simp] theorem State.setRegs_st (w : Vector Byte 16) : (s.setRegs w).st = s.st := rfl
@[simp] theorem State.setRegs_disp (w : Vector Byte 16) : (s.setRegs w).disp = s.disp := rfl
@[simp] theorem State.setRegs_mem (w : Vector Byte 16) : (s.setRegs w).mem = s.mem := rfl
@[simp] theorem State.setRegs_rs (w : Vector Byte 16) : (s.setRegs w).rs = s.rs := rfl
@[simp] theorem State.setRegs_kl (w : Vector Byte 16) : (s.setRegs w).kl = s.kl := rfl
@[simp] theorem State.setRegs_sr (w : Vector Byte 16) : (s.setRegs w).sr = s.sr := rfl
@[simp] theorem State.setRegs_cfg (w : Vector Byte 16) : (s.setRegs w).cfg = s.cfg := rfl
@[simp] theorem State.setRegs_keys (w : Vector Byte 16) : (s.setRegs w).keys = s.keys := rfl
@[simp] theorem State.setRegs_rnd (w : Vector Byte 16) : (s.setRegs w).rnd = s.rnd := rfl
@[simp] theorem State.setRegs_result (w : Vector Byte 16) : (s.setRegs w).result = s.result := rfl
@[simp] theorem State.setRegs_ops (w : Vector Byte 16) : (s.setRegs w).ops = s.ops := rfl
@[simp] theorem State.setRegs_draws (w : Vector Byte 16) : (s.setRegs w).draws = s.draws := rfl
@[simp] theorem State.setRegs_loadable (w : Vector Byte 16) : (s.setRegs w).loadable = s.loadable := rfl

/-! ### State.setDt -/

@[simp] theorem State.setDt_v (b : Byte) : (s.setDt b).v = s.v := rfl
@[simp] theorem State.setDt_i (b : Byte) : (s.setDt b).i = s.i := rfl
@[simp] theorem State.setDt_pc (b : Byte) : (s.setDt b).pc = s.pc := rfl
@[simp] theorem State.setDt_sp (b : Byte) : (s.setDt b).sp = s.sp := rfl
@[simp] theorem State.setDt_stack (b : Byte) : (s.setDt b).stack = s.stack := rfl
@[simp] theorem State.setDt_dt (b : Byte) : (s.setDt b).dt = b := rfl
@[simp] theorem State.setDt_st (b : Byte) : (s.setDt b).st = s.st := rfl
@[simp] theorem State.setDt_disp (b : Byte) : (s.setDt b).disp = s.disp := rfl
@[simp] theorem State.setDt_mem (b : Byte) : (s.setDt b).mem = s.mem := rfl
@[simp] theorem State.setDt_rs (b : Byte) : (s.setDt b).rs = s.rs := rfl
@[simp] theorem State.setDt_kl (b : Byte) : (s.setDt b).kl = s.kl := rfl
@[simp] theorem State.setDt_sr (b : Byte) : (s.setDt b).sr = s.sr := rfl
@[simp] theorem State.setDt_cfg (b : Byte) : (s.setDt b).cfg = s.cfg := rfl
@[simp] theorem State.setDt_keys (b : Byte) : (s.setDt b).keys = s.keys := rfl
@[simp] theorem State.setDt_rnd (b : Byte) : (s.setDt b).rnd = s.rnd := rfl
@[simp] theorem State.setDt_result (b : Byte) : (s.setDt b).result = s.result := rfl
@[simp] theorem State.setDt_ops (b : Byte) : (s.setDt b).ops = s.ops := rfl
@[simp] theorem State.setDt_draws (b : Byte) : (s.setDt b).draws = s.draws := rfl
@[simp] theorem State.setDt_loadable (b : Byte) : (s.setDt b).loadable = s.loadable := rfl

/-! ### State.setSt -/

@[simp] theorem State.setSt_v (b : Byte) : (s.setSt b).v = s.v := rfl
@[simp] theorem State.setSt_i (b : Byte) : (s.setSt b).i = s.i := rfl
@[simp] theorem State.setSt_pc (b : Byte) : (s.setSt b).pc = s.pc := rfl
@[simp] theorem State.setSt_sp (b : Byte) : (s.setSt b).sp = s.sp := rfl
@[simp] theorem State.setSt_stack (b : Byte) : (s.setSt b).stack = s.stack := rfl
@[simp] theorem State.setSt_dt (b : Byte) : (s.setSt b).dt = s.dt := rfl
@[simp] theorem State.setSt_st (b : Byte) : (s.setSt b).st = b := rfl
@[simp] theorem State.setSt_disp (b : Byte) : (s.setSt b).disp = s.disp := rfl
@[simp] theorem State.setSt_mem (b : Byte) : (s.setSt b).mem = s.mem := rfl
@[simp] theorem State.setSt_rs (b : Byte) : (s.setSt b).rs = s.rs := rfl
@[simp] theorem State.setSt_kl (b : Byte) : (s.setSt b).kl = s.kl := rfl
@[simp] theorem State.setSt_sr (b : Byte) : (s.setSt b).sr = s.sr := rfl
@[simp] theorem State.setSt_cfg (b : Byte) : (s.setSt b).cfg = s.cfg := rfl
@[simp] theorem State.setSt_keys (b : Byte) : (s.setSt b).keys = s.keys := rfl
@[simp] theorem State.setSt_rnd (b : Byte) : (s.setSt b).rnd = s.rnd := rfl
@[simp] theorem State.setSt_result (b : Byte) : (s.setSt b).result = s.result := rfl
@[simp] theorem State.setSt_ops (b : Byte) : (s.setSt b).ops = s.ops := rfl
@[simp] theorem State.setSt_draws (b : Byte) : (s.setSt b).draws = s.draws := rfl
@[simp] theorem State.setSt_loadable (b : Byte) : (s.setSt b).loadable = s.loadable := rfl

/-! ### State.answer -/

@[simp] theorem State.answer_v (r : OpResult) : (s.answer r).v = s.v := rfl
@[simp] theorem State.answer_i (r : OpResult) : (s.answer r).i = s.i := rfl
@[simp] theorem State.answer_pc (r : OpResult) : (s.answer r).pc = s.pc := rfl
@[simp] theorem State.answer_sp (r : OpResult) : (s.answer r).sp = s.sp := rfl
@[simp] theorem State.answer_stack (r : OpResult) : (s.answer r).stack = s.stack := rfl
@[simp] theorem State.answer_dt (r : OpResult) : (s.answer r).dt = s.dt := rfl
@[simp] theorem State.answer_st (r : OpResult) : (s.answer r).st = s.st := rfl
@[simp] theorem State.answer_disp (r : OpResult) : (s.answer r).disp = s.disp := rfl
@[simp] theorem State.answer_mem (r : OpResult) : (s.answer r).mem = s.mem := rfl
@[simp] theorem State.answer_rs (r : OpResult) : (s.answer r).rs = s.rs := rfl
@[simp] theorem State.answer_kl (r : OpResult) : (s.answer r).kl = s.kl := rfl
@[simp] theorem State.answer_sr (r : OpResult) : (s.answer r).sr = s.sr := rfl
@[simp] theorem State.answer_cfg (r : OpResult) : (s.answer r).cfg = s.cfg := rfl
@[simp] theorem State.answer_keys (r : OpResult) : (s.answer r).keys = s.keys := rfl
@[simp] theorem State.answer_rnd (r : OpResult) : (s.answer r).rnd = s.rnd := rfl
@[simp] theorem State.answer_result (r : OpResult) : (s.answer r).result = r := rfl
@[simp] theorem State.answer_ops (r : OpResult) : (s.answer r).ops = s.ops := rfl
@[simp] theorem State.answer_draws (r : OpResult) : (s.answer r).draws = s.draws := rfl
@[simp] theorem State.answer_loadable (r : OpResult) : (s.answer r).loadable = s.loadable := rfl

/-! ### State.setDisp -/

@[simp] theorem State.setDisp_v (d : Display) : (s.setDisp d).v = s.v := rfl
@[simp] theorem State.setDisp_i (d : Display) : (s.setDisp d).i = s.i := rfl
@[simp] theorem State.setDisp_pc (d : Display) : (s.setDisp d).pc = s.pc := rfl
@[simp] theorem State.setDisp_sp (d : Display) : (s.setDisp d).sp = s.sp := rfl
@[simp] theorem State.setDisp_stack (d : Display) : (s.setDisp d).stack = s.stack := rfl
@[simp] theorem State.setDisp_dt (d : Display) : (s.setDisp d).dt = s.dt := rfl
@[simp] theorem State.setDisp_st (d : Display) : (s.setDisp d).st = s.st := rfl
@[simp] theorem State.setDisp_disp (d : Display) : (s.setDisp d).disp = d := rfl
@[simp] theorem State.setDisp_mem (d : Display) : (s.setDisp d).mem = s.mem := rfl
@[simp] theorem State.setDisp_rs (d : Display) : (s.setDisp d).rs = s.rs := rfl
@[simp] theorem State.setDisp_kl (d : Display) : (s.setDisp d).kl = s.kl := rfl
@[simp] theorem State.setDisp_sr (d : Display) : (s.setDisp d).sr = s.sr := rfl
@[simp] theorem State.setDisp_cfg (d : Display) : (s.setDisp d).cfg = s.cfg := rfl
@[simp] theorem State.setDisp_keys (d : Display) : (s.setDisp d).keys = s.keys := rfl
@[simp] theorem State.setDisp_rnd (d : Display) : (s.setDisp d).rnd = s.rnd := rfl
@[simp] theorem State.setDisp_result (d : Display) : (s.setDisp d).result = s.result := rfl
@[simp] theorem State.setDisp_ops (d : Display) : (s.setDisp d).ops = s.ops := rfl
@[simp] theorem State.setDisp_draws (d : Display) : (s.setDisp d).draws = s.draws := rfl
@[simp] theorem State.setDisp_loadable (d : Display) : (s.setDisp d).loadable = s.loadable := rfl

/-! ### State.rememberKeys -/

@[simp] theorem State.rememberKeys_v : (s.rememberKeys).v = s.v := rfl
@[simp] theorem State.rememberKeys_i : (s.rememberKeys).i = s.i := rfl
@[simp] theorem State.rememberKeys_pc : (s.rememberKeys).pc = s.pc := rfl
@[simp] theorem State.rememberKeys_sp : (s.rememberKeys).sp = s.sp := rfl
@[simp] theorem State.rememberKeys_stack : (s.rememberKeys).stack = s.stack := rfl
@[simp] theorem State.rememberKeys_dt : (s.rememberKeys).dt = s.dt := rfl
@[simp] theorem State.rememberKeys_st : (s.rememberKeys).st = s.st := rfl
@[simp] theorem State.rememberKeys_disp : (s.rememberKeys).disp = s.disp := rfl
@[simp] theorem State.rememberKeys_mem : (s.rememberKeys).mem = s.mem := rfl
@[simp] theorem State.rememberKeys_rs : (s.rememberKeys).rs = s.rs := rfl
@[simp] theorem State.rememberKeys_kl : (s.rememberKeys).kl = s.keys := rfl
@[simp] theorem State.rememberKeys_sr : (s.rememberKeys).sr = s.sr := rfl
@[simp] theorem State.rememberKeys_cfg : (s.rememberKeys).cfg = s.cfg := rfl
@[simp] theorem State.rememberKeys_keys : (s.rememberKeys).keys = s.keys := rfl
@[simp] theorem State.rememberKeys_rnd : (s.rememberKeys).rnd = s.rnd := rfl
@[simp] theorem State.rememberKeys_result : (s.rememberKeys).result = s.result := rfl
@[simp] theorem State.rememberKeys_ops : (s.rememberKeys).ops = s.ops := rfl
@[simp] theorem State.rememberKeys_draws : (s.rememberKeys).draws = s.draws := rfl
@[simp] theorem State.rememberKeys_loadable : (s.rememberKeys).loadable = s.loadable := rfl

/-! ### State.beginWait -/

@[simp] theorem State.beginWait_v (r : RegIx) : (s.beginWait r).v = s.v := rfl
@[simp] theorem State.beginWait_i (r : RegIx) : (s.beginWait r).i = s.i := rfl
@[simp] theorem State.beginWait_pc (r : RegIx) : (s.beginWait r).pc = s.pc := rfl
@[simp] theorem State.beginWait_sp (r : RegIx) : (s.beginWait r).sp = s.sp := rfl
@[simp] theorem State.beginWait_stack (r : RegIx) : (s.beginWait r).stack = s.stack := rfl
@[simp] theorem State.beginWait_dt (r : RegIx) : (s.beginWait r).dt = s.dt := rfl
@[simp] theorem State.beginWait_st (r : RegIx) : (s.beginWait r).st = s.st := rfl
@[simp] theorem State.beginWait_disp (r : RegIx) : (s.beginWait r).disp = s.disp := rfl
@[simp] theorem State.beginWait_mem (r : RegIx) : (s.beginWait r).mem = s.mem := rfl
@[simp] theorem State.beginWait_rs (r : RegIx) : (s.beginWait r).rs = .awaitingKey r := rfl
@[simp] theorem State.beginWait_kl (r : RegIx) : (s.beginWait r).kl = s.kl := rfl
@[simp] theorem State.beginWait_sr (r : RegIx) : (s.beginWait r).sr = s.sr := rfl
@[simp] theorem State.beginWait_cfg (r : RegIx) : (s.beginWait r).cfg = s.cfg := rfl
@[simp] theorem State.beginWait_keys (r : RegIx) : (s.beginWait r).keys = s.keys := rfl
@[simp] theorem State.beginWait_rnd (r : RegIx) : (s.beginWait r).rnd = s.rnd := rfl
@[simp] theorem State.beginWait_result (r : RegIx) : (s.beginWait r).result = s.result := rfl
@[simp] theorem State.beginWait_ops (r : RegIx) : (s.beginWait r).ops = s.ops := rfl
@[simp] theorem State.beginWait_draws (r : RegIx) : (s.beginWait r).draws = s.draws := rfl
@[simp] theorem State.beginWait_loadable (r : RegIx) : (s.beginWait r).loadable = s.loadable := rfl

/-! ### State.endWait -/

@[simp] theorem State.endWait_v : (s.endWait).v = s.v := rfl
@[simp] theorem State.endWait_i : (s.endWait).i = s.i := rfl
@[simp] theorem State.endWait_pc : (s.endWait).pc = s.pc := rfl
@[simp] theorem State.endWait_sp : (s.endWait).sp = s.sp := rfl
@[simp] theorem State.endWait_stack : (s.endWait).stack = s.stack := rfl
@[simp] theorem State.endWait_dt : (s.endWait).dt = s.dt := rfl
@[simp] theorem State.endWait_st : (s.endWait).st = s.st := rfl
@[simp] theorem State.endWait_disp : (s.endWait).disp = s.disp := rfl
@[simp] theorem State.endWait_mem : (s.endWait).mem = s.mem := rfl
@[simp] theorem State.endWait_rs : (s.endWait).rs = .running := rfl
@[simp] theorem State.endWait_kl : (s.endWait).kl = s.kl := rfl
@[simp] theorem State.endWait_sr : (s.endWait).sr = s.sr := rfl
@[simp] theorem State.endWait_cfg : (s.endWait).cfg = s.cfg := rfl
@[simp] theorem State.endWait_keys : (s.endWait).keys = s.keys := rfl
@[simp] theorem State.endWait_rnd : (s.endWait).rnd = s.rnd := rfl
@[simp] theorem State.endWait_result : (s.endWait).result = s.result := rfl
@[simp] theorem State.endWait_ops : (s.endWait).ops = s.ops := rfl
@[simp] theorem State.endWait_draws : (s.endWait).draws = s.draws := rfl
@[simp] theorem State.endWait_loadable : (s.endWait).loadable = s.loadable := rfl

/-! ### State.withOps -/

@[simp] theorem State.withOps_v (rest : List HostOp) : (s.withOps rest).v = s.v := rfl
@[simp] theorem State.withOps_i (rest : List HostOp) : (s.withOps rest).i = s.i := rfl
@[simp] theorem State.withOps_pc (rest : List HostOp) : (s.withOps rest).pc = s.pc := rfl
@[simp] theorem State.withOps_sp (rest : List HostOp) : (s.withOps rest).sp = s.sp := rfl
@[simp] theorem State.withOps_stack (rest : List HostOp) : (s.withOps rest).stack = s.stack := rfl
@[simp] theorem State.withOps_dt (rest : List HostOp) : (s.withOps rest).dt = s.dt := rfl
@[simp] theorem State.withOps_st (rest : List HostOp) : (s.withOps rest).st = s.st := rfl
@[simp] theorem State.withOps_disp (rest : List HostOp) : (s.withOps rest).disp = s.disp := rfl
@[simp] theorem State.withOps_mem (rest : List HostOp) : (s.withOps rest).mem = s.mem := rfl
@[simp] theorem State.withOps_rs (rest : List HostOp) : (s.withOps rest).rs = s.rs := rfl
@[simp] theorem State.withOps_kl (rest : List HostOp) : (s.withOps rest).kl = s.kl := rfl
@[simp] theorem State.withOps_sr (rest : List HostOp) : (s.withOps rest).sr = s.sr := rfl
@[simp] theorem State.withOps_cfg (rest : List HostOp) : (s.withOps rest).cfg = s.cfg := rfl
@[simp] theorem State.withOps_keys (rest : List HostOp) : (s.withOps rest).keys = s.keys := rfl
@[simp] theorem State.withOps_rnd (rest : List HostOp) : (s.withOps rest).rnd = s.rnd := rfl
@[simp] theorem State.withOps_result (rest : List HostOp) : (s.withOps rest).result = s.result := rfl
@[simp] theorem State.withOps_ops (rest : List HostOp) : (s.withOps rest).ops = rest := rfl
@[simp] theorem State.withOps_draws (rest : List HostOp) : (s.withOps rest).draws = s.draws := rfl
@[simp] theorem State.withOps_loadable (rest : List HostOp) : (s.withOps rest).loadable = s.loadable := rfl

/-! ### State.countDraw -/

@[simp] theorem State.countDraw_v : (s.countDraw).v = s.v := rfl
@[simp] theorem State.countDraw_i : (s.countDraw).i = s.i := rfl
@[simp] theorem State.countDraw_pc : (s.countDraw).pc = s.pc := rfl
@[simp] theorem State.countDraw_sp : (s.countDraw).sp = s.sp := rfl
@[simp] theorem State.countDraw_stack : (s.countDraw).stack = s.stack := rfl
@[simp] theorem State.countDraw_dt : (s.countDraw).dt = s.dt := rfl
@[simp] theorem State.countDraw_st : (s.countDraw).st = s.st := rfl
@[simp] theorem State.countDraw_disp : (s.countDraw).disp = s.disp := rfl
@[simp] theorem State.countDraw_mem : (s.countDraw).mem = s.mem := rfl
@[simp] theorem State.countDraw_rs : (s.countDraw).rs = s.rs := rfl
@[simp] theorem State.countDraw_kl : (s.countDraw).kl = s.kl := rfl
@[simp] theorem State.countDraw_sr : (s.countDraw).sr = s.sr := rfl
@[simp] theorem State.countDraw_cfg : (s.countDraw).cfg = s.cfg := rfl
@[simp] theorem State.countDraw_keys : (s.countDraw).keys = s.keys := rfl
@[simp] theorem State.countDraw_rnd : (s.countDraw).rnd = s.rnd := rfl
@[simp] theorem State.countDraw_result : (s.countDraw).result = s.result := rfl
@[simp] theorem State.countDraw_ops : (s.countDraw).ops = s.ops := rfl
@[simp] theorem State.countDraw_draws : (s.countDraw).draws = s.draws + 1 := rfl
@[simp] theorem State.countDraw_loadable : (s.countDraw).loadable = s.loadable := rfl

/-! ### State.setReg -/

@[simp] theorem State.setReg_v (k : RegIx) (b : Byte) : (s.setReg k b).v = s.v.set k.val b := rfl
@[simp] theorem State.setReg_i (k : RegIx) (b : Byte) : (s.setReg k b).i = s.i := rfl
@[simp] theorem State.setReg_pc (k : RegIx) (b : Byte) : (s.setReg k b).pc = s.pc := rfl
@[simp] theorem State.setReg_sp (k : RegIx) (b : Byte) : (s.setReg k b).sp = s.sp := rfl
@[simp] theorem State.setReg_stack (k : RegIx) (b : Byte) : (s.setReg k b).stack = s.stack := rfl
@[simp] theorem State.setReg_dt (k : RegIx) (b : Byte) : (s.setReg k b).dt = s.dt := rfl
@[simp] theorem State.setReg_st (k : RegIx) (b : Byte) : (s.setReg k b).st = s.st := rfl
@[simp] theorem State.setReg_disp (k : RegIx) (b : Byte) : (s.setReg k b).disp = s.disp := rfl
@[simp] theorem State.setReg_mem (k : RegIx) (b : Byte) : (s.setReg k b).mem = s.mem := rfl
@[simp] theorem State.setReg_rs (k : RegIx) (b : Byte) : (s.setReg k b).rs = s.rs := rfl
@[simp] theorem State.setReg_kl (k : RegIx) (b : Byte) : (s.setReg k b).kl = s.kl := rfl
@[simp] theorem State.setReg_sr (k : RegIx) (b : Byte) : (s.setReg k b).sr = s.sr := rfl
@[simp] theorem State.setReg_cfg (k : RegIx) (b : Byte) : (s.setReg k b).cfg = s.cfg := rfl
@[simp] theorem State.setReg_keys (k : RegIx) (b : Byte) : (s.setReg k b).keys = s.keys := rfl
@[simp] theorem State.setReg_rnd (k : RegIx) (b : Byte) : (s.setReg k b).rnd = s.rnd := rfl
@[simp] theorem State.setReg_result (k : RegIx) (b : Byte) : (s.setReg k b).result = s.result := rfl
@[simp] theorem State.setReg_ops (k : RegIx) (b : Byte) : (s.setReg k b).ops = s.ops := rfl
@[simp] theorem State.setReg_draws (k : RegIx) (b : Byte) : (s.setReg k b).draws = s.draws := rfl
@[simp] theorem State.setReg_loadable (k : RegIx) (b : Byte) : (s.setReg k b).loadable = s.loadable := rfl

/-! ### State.setI -/

@[simp] theorem State.setI_v (w : Word) : (s.setI w).v = s.v := rfl
@[simp] theorem State.setI_i (w : Word) : (s.setI w).i = w := rfl
@[simp] theorem State.setI_pc (w : Word) : (s.setI w).pc = s.pc := rfl
@[simp] theorem State.setI_sp (w : Word) : (s.setI w).sp = s.sp := rfl
@[simp] theorem State.setI_stack (w : Word) : (s.setI w).stack = s.stack := rfl
@[simp] theorem State.setI_dt (w : Word) : (s.setI w).dt = s.dt := rfl
@[simp] theorem State.setI_st (w : Word) : (s.setI w).st = s.st := rfl
@[simp] theorem State.setI_disp (w : Word) : (s.setI w).disp = s.disp := rfl
@[simp] theorem State.setI_mem (w : Word) : (s.setI w).mem = s.mem := rfl
@[simp] theorem State.setI_rs (w : Word) : (s.setI w).rs = s.rs := rfl
@[simp] theorem State.setI_kl (w : Word) : (s.setI w).kl = s.kl := rfl
@[simp] theorem State.setI_sr (w : Word) : (s.setI w).sr = s.sr := rfl
@[simp] theorem State.setI_cfg (w : Word) : (s.setI w).cfg = s.cfg := rfl
@[simp] theorem State.setI_keys (w : Word) : (s.setI w).keys = s.keys := rfl
@[simp] theorem State.setI_rnd (w : Word) : (s.setI w).rnd = s.rnd := rfl
@[simp] theorem State.setI_result (w : Word) : (s.setI w).result = s.result := rfl
@[simp] theorem State.setI_ops (w : Word) : (s.setI w).ops = s.ops := rfl
@[simp] theorem State.setI_draws (w : Word) : (s.setI w).draws = s.draws := rfl
@[simp] theorem State.setI_loadable (w : Word) : (s.setI w).loadable = s.loadable := rfl

/-! ### State.jump -/

@[simp] theorem State.jump_v (p : Word) : (s.jump p).v = s.v := rfl
@[simp] theorem State.jump_i (p : Word) : (s.jump p).i = s.i := rfl
@[simp] theorem State.jump_pc (p : Word) : (s.jump p).pc = p := rfl
@[simp] theorem State.jump_sp (p : Word) : (s.jump p).sp = s.sp := rfl
@[simp] theorem State.jump_stack (p : Word) : (s.jump p).stack = s.stack := rfl
@[simp] theorem State.jump_dt (p : Word) : (s.jump p).dt = s.dt := rfl
@[simp] theorem State.jump_st (p : Word) : (s.jump p).st = s.st := rfl
@[simp] theorem State.jump_disp (p : Word) : (s.jump p).disp = s.disp := rfl
@[simp] theorem State.jump_mem (p : Word) : (s.jump p).mem = s.mem := rfl
@[simp] theorem State.jump_rs (p : Word) : (s.jump p).rs = s.rs := rfl
@[simp] theorem State.jump_kl (p : Word) : (s.jump p).kl = s.kl := rfl
@[simp] theorem State.jump_sr (p : Word) : (s.jump p).sr = s.sr := rfl
@[simp] theorem State.jump_cfg (p : Word) : (s.jump p).cfg = s.cfg := rfl
@[simp] theorem State.jump_keys (p : Word) : (s.jump p).keys = s.keys := rfl
@[simp] theorem State.jump_rnd (p : Word) : (s.jump p).rnd = s.rnd := rfl
@[simp] theorem State.jump_result (p : Word) : (s.jump p).result = .ok := rfl
@[simp] theorem State.jump_ops (p : Word) : (s.jump p).ops = s.ops := rfl
@[simp] theorem State.jump_draws (p : Word) : (s.jump p).draws = s.draws := rfl
@[simp] theorem State.jump_loadable (p : Word) : (s.jump p).loadable = s.loadable := rfl

/-! ### State.advance -/

@[simp] theorem State.advance_v : (s.advance).v = s.v := rfl
@[simp] theorem State.advance_i : (s.advance).i = s.i := rfl
@[simp] theorem State.advance_pc : (s.advance).pc = s.pc + 2 := rfl
@[simp] theorem State.advance_sp : (s.advance).sp = s.sp := rfl
@[simp] theorem State.advance_stack : (s.advance).stack = s.stack := rfl
@[simp] theorem State.advance_dt : (s.advance).dt = s.dt := rfl
@[simp] theorem State.advance_st : (s.advance).st = s.st := rfl
@[simp] theorem State.advance_disp : (s.advance).disp = s.disp := rfl
@[simp] theorem State.advance_mem : (s.advance).mem = s.mem := rfl
@[simp] theorem State.advance_rs : (s.advance).rs = s.rs := rfl
@[simp] theorem State.advance_kl : (s.advance).kl = s.kl := rfl
@[simp] theorem State.advance_sr : (s.advance).sr = s.sr := rfl
@[simp] theorem State.advance_cfg : (s.advance).cfg = s.cfg := rfl
@[simp] theorem State.advance_keys : (s.advance).keys = s.keys := rfl
@[simp] theorem State.advance_rnd : (s.advance).rnd = s.rnd := rfl
@[simp] theorem State.advance_result : (s.advance).result = .ok := rfl
@[simp] theorem State.advance_ops : (s.advance).ops = s.ops := rfl
@[simp] theorem State.advance_draws : (s.advance).draws = s.draws := rfl
@[simp] theorem State.advance_loadable : (s.advance).loadable = s.loadable := rfl

/-! ### State.skipIf -/

@[simp] theorem State.skipIf_v (c : Bool) : (s.skipIf c).v = s.v := rfl
@[simp] theorem State.skipIf_i (c : Bool) : (s.skipIf c).i = s.i := rfl
@[simp] theorem State.skipIf_pc (c : Bool) : (s.skipIf c).pc = if c then s.pc + 4 else s.pc + 2 := rfl
@[simp] theorem State.skipIf_sp (c : Bool) : (s.skipIf c).sp = s.sp := rfl
@[simp] theorem State.skipIf_stack (c : Bool) : (s.skipIf c).stack = s.stack := rfl
@[simp] theorem State.skipIf_dt (c : Bool) : (s.skipIf c).dt = s.dt := rfl
@[simp] theorem State.skipIf_st (c : Bool) : (s.skipIf c).st = s.st := rfl
@[simp] theorem State.skipIf_disp (c : Bool) : (s.skipIf c).disp = s.disp := rfl
@[simp] theorem State.skipIf_mem (c : Bool) : (s.skipIf c).mem = s.mem := rfl
@[simp] theorem State.skipIf_rs (c : Bool) : (s.skipIf c).rs = s.rs := rfl
@[simp] theorem State.skipIf_kl (c : Bool) : (s.skipIf c).kl = s.kl := rfl
@[simp] theorem State.skipIf_sr (c : Bool) : (s.skipIf c).sr = s.sr := rfl
@[simp] theorem State.skipIf_cfg (c : Bool) : (s.skipIf c).cfg = s.cfg := rfl
@[simp] theorem State.skipIf_keys (c : Bool) : (s.skipIf c).keys = s.keys := rfl
@[simp] theorem State.skipIf_rnd (c : Bool) : (s.skipIf c).rnd = s.rnd := rfl
@[simp] theorem State.skipIf_result (c : Bool) : (s.skipIf c).result = .ok := rfl
@[simp] theorem State.skipIf_ops (c : Bool) : (s.skipIf c).ops = s.ops := rfl
@[simp] theorem State.skipIf_draws (c : Bool) : (s.skipIf c).draws = s.draws := rfl
@[simp] theorem State.skipIf_loadable (c : Bool) : (s.skipIf c).loadable = s.loadable := rfl

/-! ### State.raise -/

@[simp] theorem State.raise_v (f : FailureCode) (w addr : Word) : (s.raise f w addr).v = s.v := rfl
@[simp] theorem State.raise_i (f : FailureCode) (w addr : Word) : (s.raise f w addr).i = s.i := rfl
@[simp] theorem State.raise_pc (f : FailureCode) (w addr : Word) : (s.raise f w addr).pc = s.pc := rfl
@[simp] theorem State.raise_sp (f : FailureCode) (w addr : Word) : (s.raise f w addr).sp = s.sp := rfl
@[simp] theorem State.raise_stack (f : FailureCode) (w addr : Word) : (s.raise f w addr).stack = s.stack := rfl
@[simp] theorem State.raise_dt (f : FailureCode) (w addr : Word) : (s.raise f w addr).dt = s.dt := rfl
@[simp] theorem State.raise_st (f : FailureCode) (w addr : Word) : (s.raise f w addr).st = s.st := rfl
@[simp] theorem State.raise_disp (f : FailureCode) (w addr : Word) : (s.raise f w addr).disp = s.disp := rfl
@[simp] theorem State.raise_mem (f : FailureCode) (w addr : Word) : (s.raise f w addr).mem = s.mem := rfl
@[simp] theorem State.raise_rs (f : FailureCode) (w addr : Word) : (s.raise f w addr).rs = .halted := rfl
@[simp] theorem State.raise_kl (f : FailureCode) (w addr : Word) : (s.raise f w addr).kl = s.kl := rfl
@[simp] theorem State.raise_sr (f : FailureCode) (w addr : Word) : (s.raise f w addr).sr = ⟨f.number, w, s.pc, addr, s.sr.unk⟩ := rfl
@[simp] theorem State.raise_cfg (f : FailureCode) (w addr : Word) : (s.raise f w addr).cfg = s.cfg := rfl
@[simp] theorem State.raise_keys (f : FailureCode) (w addr : Word) : (s.raise f w addr).keys = s.keys := rfl
@[simp] theorem State.raise_rnd (f : FailureCode) (w addr : Word) : (s.raise f w addr).rnd = s.rnd := rfl
@[simp] theorem State.raise_result (f : FailureCode) (w addr : Word) : (s.raise f w addr).result = .fault f.number w s.pc addr := rfl
@[simp] theorem State.raise_ops (f : FailureCode) (w addr : Word) : (s.raise f w addr).ops = s.ops := rfl
@[simp] theorem State.raise_draws (f : FailureCode) (w addr : Word) : (s.raise f w addr).draws = s.draws := rfl
@[simp] theorem State.raise_loadable (f : FailureCode) (w addr : Word) : (s.raise f w addr).loadable = s.loadable := rfl

/-! ### State.reportUnknown -/

@[simp] theorem State.reportUnknown_v (w : Word) : (s.reportUnknown w).v = s.v := rfl
@[simp] theorem State.reportUnknown_i (w : Word) : (s.reportUnknown w).i = s.i := rfl
@[simp] theorem State.reportUnknown_pc (w : Word) : (s.reportUnknown w).pc = s.pc + 2 := rfl
@[simp] theorem State.reportUnknown_sp (w : Word) : (s.reportUnknown w).sp = s.sp := rfl
@[simp] theorem State.reportUnknown_stack (w : Word) : (s.reportUnknown w).stack = s.stack := rfl
@[simp] theorem State.reportUnknown_dt (w : Word) : (s.reportUnknown w).dt = s.dt := rfl
@[simp] theorem State.reportUnknown_st (w : Word) : (s.reportUnknown w).st = s.st := rfl
@[simp] theorem State.reportUnknown_disp (w : Word) : (s.reportUnknown w).disp = s.disp := rfl
@[simp] theorem State.reportUnknown_mem (w : Word) : (s.reportUnknown w).mem = s.mem := rfl
@[simp] theorem State.reportUnknown_rs (w : Word) : (s.reportUnknown w).rs = s.rs := rfl
@[simp] theorem State.reportUnknown_kl (w : Word) : (s.reportUnknown w).kl = s.kl := rfl
@[simp] theorem State.reportUnknown_sr (w : Word) : (s.reportUnknown w).sr = ⟨s.sr.code, s.sr.word, s.sr.pc, s.sr.addr, true⟩ := rfl
@[simp] theorem State.reportUnknown_cfg (w : Word) : (s.reportUnknown w).cfg = s.cfg := rfl
@[simp] theorem State.reportUnknown_keys (w : Word) : (s.reportUnknown w).keys = s.keys := rfl
@[simp] theorem State.reportUnknown_rnd (w : Word) : (s.reportUnknown w).rnd = s.rnd := rfl
@[simp] theorem State.reportUnknown_result (w : Word) : (s.reportUnknown w).result = .unknown w s.pc := rfl
@[simp] theorem State.reportUnknown_ops (w : Word) : (s.reportUnknown w).ops = s.ops := rfl
@[simp] theorem State.reportUnknown_draws (w : Word) : (s.reportUnknown w).draws = s.draws := rfl
@[simp] theorem State.reportUnknown_loadable (w : Word) : (s.reportUnknown w).loadable = s.loadable := rfl

/-! ### State.writeByte -/

@[simp] theorem State.writeByte_v (a : Nat) (b : Byte) : (s.writeByte a b).v = s.v := rfl
@[simp] theorem State.writeByte_i (a : Nat) (b : Byte) : (s.writeByte a b).i = s.i := rfl
@[simp] theorem State.writeByte_pc (a : Nat) (b : Byte) : (s.writeByte a b).pc = s.pc := rfl
@[simp] theorem State.writeByte_sp (a : Nat) (b : Byte) : (s.writeByte a b).sp = s.sp := rfl
@[simp] theorem State.writeByte_stack (a : Nat) (b : Byte) : (s.writeByte a b).stack = s.stack := rfl
@[simp] theorem State.writeByte_dt (a : Nat) (b : Byte) : (s.writeByte a b).dt = s.dt := rfl
@[simp] theorem State.writeByte_st (a : Nat) (b : Byte) : (s.writeByte a b).st = s.st := rfl
@[simp] theorem State.writeByte_disp (a : Nat) (b : Byte) : (s.writeByte a b).disp = s.disp := rfl
@[simp] theorem State.writeByte_mem (a : Nat) (b : Byte) : (s.writeByte a b).mem = Memory.write s.cfg s.mem a b := rfl
@[simp] theorem State.writeByte_rs (a : Nat) (b : Byte) : (s.writeByte a b).rs = s.rs := rfl
@[simp] theorem State.writeByte_kl (a : Nat) (b : Byte) : (s.writeByte a b).kl = s.kl := rfl
@[simp] theorem State.writeByte_sr (a : Nat) (b : Byte) : (s.writeByte a b).sr = s.sr := rfl
@[simp] theorem State.writeByte_cfg (a : Nat) (b : Byte) : (s.writeByte a b).cfg = s.cfg := rfl
@[simp] theorem State.writeByte_keys (a : Nat) (b : Byte) : (s.writeByte a b).keys = s.keys := rfl
@[simp] theorem State.writeByte_rnd (a : Nat) (b : Byte) : (s.writeByte a b).rnd = s.rnd := rfl
@[simp] theorem State.writeByte_result (a : Nat) (b : Byte) : (s.writeByte a b).result = s.result := rfl
@[simp] theorem State.writeByte_ops (a : Nat) (b : Byte) : (s.writeByte a b).ops = s.ops := rfl
@[simp] theorem State.writeByte_draws (a : Nat) (b : Byte) : (s.writeByte a b).draws = s.draws := rfl
@[simp] theorem State.writeByte_loadable (a : Nat) (b : Byte) : (s.writeByte a b).loadable = s.loadable := rfl

/-! ### State.latch -/

@[simp] theorem State.latch_v (ks : KeySet) (r : Byte) : (s.latch ks r).v = s.v := rfl
@[simp] theorem State.latch_i (ks : KeySet) (r : Byte) : (s.latch ks r).i = s.i := rfl
@[simp] theorem State.latch_pc (ks : KeySet) (r : Byte) : (s.latch ks r).pc = s.pc := rfl
@[simp] theorem State.latch_sp (ks : KeySet) (r : Byte) : (s.latch ks r).sp = s.sp := rfl
@[simp] theorem State.latch_stack (ks : KeySet) (r : Byte) : (s.latch ks r).stack = s.stack := rfl
@[simp] theorem State.latch_dt (ks : KeySet) (r : Byte) : (s.latch ks r).dt = s.dt := rfl
@[simp] theorem State.latch_st (ks : KeySet) (r : Byte) : (s.latch ks r).st = s.st := rfl
@[simp] theorem State.latch_disp (ks : KeySet) (r : Byte) : (s.latch ks r).disp = s.disp := rfl
@[simp] theorem State.latch_mem (ks : KeySet) (r : Byte) : (s.latch ks r).mem = s.mem := rfl
@[simp] theorem State.latch_rs (ks : KeySet) (r : Byte) : (s.latch ks r).rs = s.rs := rfl
@[simp] theorem State.latch_kl (ks : KeySet) (r : Byte) : (s.latch ks r).kl = s.kl := rfl
@[simp] theorem State.latch_sr (ks : KeySet) (r : Byte) : (s.latch ks r).sr = s.sr := rfl
@[simp] theorem State.latch_cfg (ks : KeySet) (r : Byte) : (s.latch ks r).cfg = s.cfg := rfl
@[simp] theorem State.latch_keys (ks : KeySet) (r : Byte) : (s.latch ks r).keys = ks := rfl
@[simp] theorem State.latch_rnd (ks : KeySet) (r : Byte) : (s.latch ks r).rnd = r := rfl
@[simp] theorem State.latch_result (ks : KeySet) (r : Byte) : (s.latch ks r).result = s.result := rfl
@[simp] theorem State.latch_ops (ks : KeySet) (r : Byte) : (s.latch ks r).ops = s.ops := rfl
@[simp] theorem State.latch_draws (ks : KeySet) (r : Byte) : (s.latch ks r).draws = s.draws := rfl
@[simp] theorem State.latch_loadable (ks : KeySet) (r : Byte) : (s.latch ks r).loadable = false := rfl

/-! ### State.storeBytes: only memory changes -/

@[simp] theorem State.storeBytes_v (bs : List Byte) (s : State) (a : Nat) : (s.storeBytes a bs).v = s.v := by
  induction bs generalizing s a with
  | nil => rfl
  | cons b bs ih => simp [State.storeBytes, ih]
@[simp] theorem State.storeBytes_i (bs : List Byte) (s : State) (a : Nat) : (s.storeBytes a bs).i = s.i := by
  induction bs generalizing s a with
  | nil => rfl
  | cons b bs ih => simp [State.storeBytes, ih]
@[simp] theorem State.storeBytes_pc (bs : List Byte) (s : State) (a : Nat) : (s.storeBytes a bs).pc = s.pc := by
  induction bs generalizing s a with
  | nil => rfl
  | cons b bs ih => simp [State.storeBytes, ih]
@[simp] theorem State.storeBytes_sp (bs : List Byte) (s : State) (a : Nat) : (s.storeBytes a bs).sp = s.sp := by
  induction bs generalizing s a with
  | nil => rfl
  | cons b bs ih => simp [State.storeBytes, ih]
@[simp] theorem State.storeBytes_stack (bs : List Byte) (s : State) (a : Nat) : (s.storeBytes a bs).stack = s.stack := by
  induction bs generalizing s a with
  | nil => rfl
  | cons b bs ih => simp [State.storeBytes, ih]
@[simp] theorem State.storeBytes_dt (bs : List Byte) (s : State) (a : Nat) : (s.storeBytes a bs).dt = s.dt := by
  induction bs generalizing s a with
  | nil => rfl
  | cons b bs ih => simp [State.storeBytes, ih]
@[simp] theorem State.storeBytes_st (bs : List Byte) (s : State) (a : Nat) : (s.storeBytes a bs).st = s.st := by
  induction bs generalizing s a with
  | nil => rfl
  | cons b bs ih => simp [State.storeBytes, ih]
@[simp] theorem State.storeBytes_disp (bs : List Byte) (s : State) (a : Nat) : (s.storeBytes a bs).disp = s.disp := by
  induction bs generalizing s a with
  | nil => rfl
  | cons b bs ih => simp [State.storeBytes, ih]
@[simp] theorem State.storeBytes_rs (bs : List Byte) (s : State) (a : Nat) : (s.storeBytes a bs).rs = s.rs := by
  induction bs generalizing s a with
  | nil => rfl
  | cons b bs ih => simp [State.storeBytes, ih]
@[simp] theorem State.storeBytes_kl (bs : List Byte) (s : State) (a : Nat) : (s.storeBytes a bs).kl = s.kl := by
  induction bs generalizing s a with
  | nil => rfl
  | cons b bs ih => simp [State.storeBytes, ih]
@[simp] theorem State.storeBytes_sr (bs : List Byte) (s : State) (a : Nat) : (s.storeBytes a bs).sr = s.sr := by
  induction bs generalizing s a with
  | nil => rfl
  | cons b bs ih => simp [State.storeBytes, ih]
@[simp] theorem State.storeBytes_cfg (bs : List Byte) (s : State) (a : Nat) : (s.storeBytes a bs).cfg = s.cfg := by
  induction bs generalizing s a with
  | nil => rfl
  | cons b bs ih => simp [State.storeBytes, ih]
@[simp] theorem State.storeBytes_keys (bs : List Byte) (s : State) (a : Nat) : (s.storeBytes a bs).keys = s.keys := by
  induction bs generalizing s a with
  | nil => rfl
  | cons b bs ih => simp [State.storeBytes, ih]
@[simp] theorem State.storeBytes_rnd (bs : List Byte) (s : State) (a : Nat) : (s.storeBytes a bs).rnd = s.rnd := by
  induction bs generalizing s a with
  | nil => rfl
  | cons b bs ih => simp [State.storeBytes, ih]
@[simp] theorem State.storeBytes_result (bs : List Byte) (s : State) (a : Nat) : (s.storeBytes a bs).result = s.result := by
  induction bs generalizing s a with
  | nil => rfl
  | cons b bs ih => simp [State.storeBytes, ih]
@[simp] theorem State.storeBytes_ops (bs : List Byte) (s : State) (a : Nat) : (s.storeBytes a bs).ops = s.ops := by
  induction bs generalizing s a with
  | nil => rfl
  | cons b bs ih => simp [State.storeBytes, ih]
@[simp] theorem State.storeBytes_draws (bs : List Byte) (s : State) (a : Nat) : (s.storeBytes a bs).draws = s.draws := by
  induction bs generalizing s a with
  | nil => rfl
  | cons b bs ih => simp [State.storeBytes, ih]
@[simp] theorem State.storeBytes_loadable (bs : List Byte) (s : State) (a : Nat) : (s.storeBytes a bs).loadable = s.loadable := by
  induction bs generalizing s a with
  | nil => rfl
  | cons b bs ih => simp [State.storeBytes, ih]

end Sys2Proof.Machine
end

