-- ==== Sys2Proof/Laws/Registers.lean ====
section
/-! SUPPORT. Reading general registers after the operations that write them. -/

namespace Sys2Proof.Machine

theorem State.reg_setReg (s : State) (j k : RegIx) (b : Byte) :
    (s.setReg j b).reg k = if j = k then b else s.reg k := by
  simp [State.reg, State.setReg, Vector.getElem_set, Fin.ext_iff]

@[simp] theorem State.reg_setReg_self (s : State) (k : RegIx) (b : Byte) : (s.setReg k b).reg k = b := by
  simp [State.reg_setReg]

theorem State.reg_setReg_of_ne (s : State) {j k : RegIx} (h : j ≠ k) (b : Byte) :
    (s.setReg j b).reg k = s.reg k := by
  simp [State.reg_setReg, h]

@[simp] theorem State.reg_setI (s : State) (w : Word) (k : RegIx) : (s.setI w).reg k = s.reg k := rfl
@[simp] theorem State.reg_jump (s : State) (p : Word) (k : RegIx) : (s.jump p).reg k = s.reg k := rfl
@[simp] theorem State.reg_advance (s : State) (k : RegIx) : s.advance.reg k = s.reg k := rfl
@[simp] theorem State.reg_skipIf (s : State) (c : Bool) (k : RegIx) : (s.skipIf c).reg k = s.reg k := rfl
@[simp] theorem State.reg_raise (s : State) (f : FailureCode) (w a : Word) (k : RegIx) :
    (s.raise f w a).reg k = s.reg k := rfl
@[simp] theorem State.reg_reportUnknown (s : State) (w : Word) (k : RegIx) : (s.reportUnknown w).reg k = s.reg k := rfl
@[simp] theorem State.reg_latch (s : State) (ks : KeySet) (r : Byte) (k : RegIx) : (s.latch ks r).reg k = s.reg k := rfl
@[simp] theorem State.reg_setDt (s : State) (b : Byte) (k : RegIx) : (s.setDt b).reg k = s.reg k := rfl
@[simp] theorem State.reg_setSt (s : State) (b : Byte) (k : RegIx) : (s.setSt b).reg k = s.reg k := rfl
@[simp] theorem State.reg_answer (s : State) (r : OpResult) (k : RegIx) : (s.answer r).reg k = s.reg k := rfl
@[simp] theorem State.reg_setDisp (s : State) (d : Display) (k : RegIx) : (s.setDisp d).reg k = s.reg k := rfl
@[simp] theorem State.reg_rememberKeys (s : State) (k : RegIx) : (s.rememberKeys).reg k = s.reg k := rfl
@[simp] theorem State.reg_beginWait (s : State) (r : RegIx) (k : RegIx) : (s.beginWait r).reg k = s.reg k := rfl
@[simp] theorem State.reg_endWait (s : State) (k : RegIx) : (s.endWait).reg k = s.reg k := rfl
@[simp] theorem State.reg_withOps (s : State) (rest : List HostOp) (k : RegIx) : (s.withOps rest).reg k = s.reg k := rfl
@[simp] theorem State.reg_countDraw (s : State) (k : RegIx) : (s.countDraw).reg k = s.reg k := rfl

@[simp] theorem State.reg_storeBytes (s : State) (a : Nat) (bs : List Byte) (k : RegIx) :
    (s.storeBytes a bs).reg k = s.reg k := by
  simp [State.reg]

/-- A state's register depends on its register file only. -/
theorem State.reg_congr {s t : State} (h : t.v = s.v) (k : RegIx) : t.reg k = s.reg k := by
  simp [State.reg, h]

/-- Sub-ops 4 and 5: VF ends as the flag, and V[x] as the value unless it is VF (41_alu R130). -/
theorem State.reg_resultThenFlag (s : State) (x k : RegIx) (value flag : Byte) :
    (s.resultThenFlag x value flag).reg k = if k = vf then flag else if k = x then value else s.reg k := by
  simp only [State.resultThenFlag, State.reg_setReg, eq_comm]

/-- Sub-ops 6, 7 and E: V[x] ends as the value, and VF as the flag unless it is V[x] (41_alu R130). -/
theorem State.reg_flagThenResult (s : State) (x k : RegIx) (flag : Byte) (value : State → Byte) :
    (s.flagThenResult x flag value).reg k =
      if k = x then value (operandState s (s.setReg vf flag)) else if k = vf then flag else s.reg k := by
  simp only [State.flagThenResult, State.reg_setReg, eq_comm]

theorem operandState_pre {s : State} (h : s.cfg.operandOrder = .pre) (t : State) : operandState s t = s := by
  simp [operandState, h]

theorem operandState_seq {s : State} (h : s.cfg.operandOrder = .seq) (t : State) : operandState s t = t := by
  simp [operandState, h]

/-- A block write of registers: the ones in the block take its bytes, the others stay. -/
theorem writeRegs_getElem (v : Vector Byte 16) (k : Nat) (bs : List Byte) (j : Nat) (hj : j < 16) :
    (writeRegs v k bs)[j] = if h : k ≤ j ∧ j < k + bs.length then bs[j - k]'(by omega) else v[j] := by
  induction bs generalizing v k with
  | nil => simp [writeRegs]
  | cons b bs ih =>
    rw [writeRegs, ih]
    by_cases h : k + 1 ≤ j ∧ j < k + 1 + bs.length
    · have h' : k ≤ j ∧ j < k + (b :: bs).length := by simp only [List.length_cons]; omega
      rw [dif_pos h, dif_pos h', List.getElem_cons, dif_neg (by omega)]
      simp only [Nat.sub_sub]
    · rw [dif_neg h, Vector.getElem_setIfInBounds]
      by_cases hk : k = j
      · subst hk; simp
      · rw [if_neg hk, dif_neg (by simp only [List.length_cons]; omega)]

/-- A value of at most 0xF names itself, whatever the policy. -/
theorem resolveIndex_of_lt {b : Byte} (h : b.toNat < 16) (p : IndexPolicy) :
    resolveIndex p b = some ⟨b.toNat, h⟩ := by
  simp [resolveIndex, h]

/-- A value above 0xF is a failure under the `fault` policy. -/
theorem resolveIndex_fault {b : Byte} (h : ¬ b.toNat < 16) : resolveIndex .fault b = none := by
  simp [resolveIndex, h]

/-- A value above 0xF names its low nibble under the `lowNibble` policy. -/
theorem resolveIndex_lowNibble {b : Byte} (h : ¬ b.toNat < 16) :
    resolveIndex .lowNibble b = some (Fin.ofNat 16 (b.toNat % 16)) := by
  simp [resolveIndex, h]

end Sys2Proof.Machine
end

