-- ==== Sys2Proof/Laws/Memory.lean ====
section
/-! SUPPORT. Memory: a read after a write, and the canonical form that every operation keeps. -/

namespace Sys2Proof.Machine

variable {c : Config}

/-- Below every listed address, memory reads as the reset contents. -/
theorem Memory.read_of_lt_all {m : Memory} {a : Nat} (h : ∀ p ∈ m, a < p.1) : Memory.read c m a = background c a := by
  induction m with
  | nil => rfl
  | cons p rest ih =>
    have hp := h p (by simp)
    rw [Memory.read, if_neg (by omega)]
    exact ih fun q hq => h q (List.mem_cons_of_mem _ hq)

theorem Memory.read_cons_self {m : Memory} {a : Nat} {b : Byte} (h : ∀ p ∈ m, a < p.1) :
    Memory.read c (Memory.cons c a b m) a = b := by
  unfold Memory.cons
  split
  · next e => rw [Memory.read_of_lt_all h, e]
  · simp [Memory.read]

theorem Memory.read_cons_of_ne {m : Memory} {a x : Nat} {b : Byte} (h : a ≠ x) :
    Memory.read c (Memory.cons c a b m) x = Memory.read c m x := by
  unfold Memory.cons
  split
  · rfl
  · rw [Memory.read, if_neg h]

/-- A write leaves every other address alone, in any memory. -/
theorem Memory.read_write_of_ne {m : Memory} {a x : Nat} (b : Byte) (h : a ≠ x) :
    Memory.read c (Memory.write c m a b) x = Memory.read c m x := by
  induction m with
  | nil => exact Memory.read_cons_of_ne h
  | cons p rest ih =>
    obtain ⟨k, old⟩ := p
    rw [Memory.write]
    split
    · exact Memory.read_cons_of_ne h
    · split
      · next e => rw [Memory.read_cons_of_ne h, Memory.read, if_neg (by omega)]
      · simp only [Memory.read, ih]

/-- A read of the address just written gives the byte, in a memory of rising addresses. -/
theorem Memory.read_write_self {m : Memory} (hm : m.Pairwise fun p q => p.1 < q.1) (a : Nat) (b : Byte) :
    Memory.read c (Memory.write c m a b) a = b := by
  induction m with
  | nil => exact Memory.read_cons_self (by simp)
  | cons p rest ih =>
    obtain ⟨k, old⟩ := p
    obtain ⟨hk, hrest⟩ := List.pairwise_cons.mp hm
    rw [Memory.write]
    split
    · next h =>
      refine Memory.read_cons_self fun q hq => ?_
      rcases List.mem_cons.mp hq with rfl | hq
      · exact h
      · exact Nat.lt_trans h (hk q hq)
    · split
      · next h e => exact Memory.read_cons_self fun q hq => e ▸ hk q hq
      · next h e => rw [Memory.read, if_neg e, ih hrest]

theorem Memory.mem_cons {m : Memory} {a : Nat} {b : Byte} {p : Host.Cell} (h : p ∈ Memory.cons c a b m) :
    (p = (a, b) ∧ b ≠ background c a) ∨ p ∈ m := by
  unfold Memory.cons at h
  split at h
  · exact .inr h
  · next e => exact (List.mem_cons.mp h).imp (fun h => ⟨h, e⟩) id

theorem Memory.pairwise_cons {m : Memory} {a : Nat} {b : Byte} (h : ∀ p ∈ m, a < p.1)
    (hm : m.Pairwise fun p q => p.1 < q.1) : (Memory.cons c a b m).Pairwise fun p q => p.1 < q.1 := by
  unfold Memory.cons
  split
  · exact hm
  · exact List.pairwise_cons.mpr ⟨h, hm⟩

theorem Memory.mem_write {m : Memory} {a : Nat} {b : Byte} {p : Host.Cell} (h : p ∈ Memory.write c m a b) :
    (p = (a, b) ∧ b ≠ background c a) ∨ p ∈ m := by
  induction m with
  | nil => exact Memory.mem_cons h
  | cons q rest ih =>
    obtain ⟨k, old⟩ := q
    rw [Memory.write] at h
    split at h
    · exact Memory.mem_cons h
    · split at h
      · exact (Memory.mem_cons h).imp id (List.mem_cons_of_mem _)
      · rcases List.mem_cons.mp h with rfl | h
        · simp
        · exact (ih h).imp id (List.mem_cons_of_mem _)

theorem Memory.pairwise_write {m : Memory} {a : Nat} {b : Byte} (hm : m.Pairwise fun p q => p.1 < q.1) :
    (Memory.write c m a b).Pairwise fun p q => p.1 < q.1 := by
  induction m with
  | nil => exact Memory.pairwise_cons (by simp) .nil
  | cons q rest ih =>
    obtain ⟨k, old⟩ := q
    obtain ⟨hk, hrest⟩ := List.pairwise_cons.mp hm
    rw [Memory.write]
    split
    · next h =>
      refine Memory.pairwise_cons (fun p hp => ?_) hm
      rcases List.mem_cons.mp hp with rfl | hp
      · exact h
      · exact Nat.lt_trans h (hk p hp)
    · split
      · next h e => exact Memory.pairwise_cons (fun p hp => e ▸ hk p hp) hrest
      · next h e =>
        refine List.pairwise_cons.mpr ⟨fun p hp => ?_, ih hrest⟩
        rcases Memory.mem_write hp with ⟨rfl, -⟩ | hp
        · simp only at *; omega
        · exact hk p hp

/-- Every write keeps the canonical form. -/
theorem Memory.wf_write {m : Memory} (hm : Memory.wf c m) {a : Nat} (ha : a < 0x1000) (b : Byte) :
    Memory.wf c (Memory.write c m a b) := by
  refine ⟨Memory.pairwise_write hm.1, fun p hp => ?_⟩
  rcases Memory.mem_write hp with ⟨rfl, hb⟩ | hp
  · exact ⟨ha, hb⟩
  · exact hm.2 p hp

/-- Reset memory is canonical. -/
theorem Memory.wf_nil : Memory.wf c [] := ⟨.nil, by simp⟩

/-! ### The state's memory -/

@[simp] theorem State.readByte_setReg (s : State) (k : RegIx) (b : Byte) (a : Nat) :
    (s.setReg k b).readByte a = s.readByte a := rfl
@[simp] theorem State.readByte_setI (s : State) (w : Word) (a : Nat) : (s.setI w).readByte a = s.readByte a := rfl
@[simp] theorem State.readByte_jump (s : State) (p : Word) (a : Nat) : (s.jump p).readByte a = s.readByte a := rfl
@[simp] theorem State.readByte_advance (s : State) (a : Nat) : s.advance.readByte a = s.readByte a := rfl
@[simp] theorem State.readByte_skipIf (s : State) (b : Bool) (a : Nat) : (s.skipIf b).readByte a = s.readByte a := rfl
@[simp] theorem State.readByte_raise (s : State) (f : FailureCode) (w d : Word) (a : Nat) :
    (s.raise f w d).readByte a = s.readByte a := rfl
@[simp] theorem State.readByte_reportUnknown (s : State) (w : Word) (a : Nat) :
    (s.reportUnknown w).readByte a = s.readByte a := rfl
@[simp] theorem State.readByte_latch (s : State) (ks : KeySet) (r : Byte) (a : Nat) :
    (s.latch ks r).readByte a = s.readByte a := rfl
@[simp] theorem State.readByte_setDt (s : State) (b : Byte) (a : Nat) : (s.setDt b).readByte a = s.readByte a := rfl
@[simp] theorem State.readByte_setSt (s : State) (b : Byte) (a : Nat) : (s.setSt b).readByte a = s.readByte a := rfl
@[simp] theorem State.readByte_answer (s : State) (r : OpResult) (a : Nat) : (s.answer r).readByte a = s.readByte a := rfl
@[simp] theorem State.readByte_setDisp (s : State) (d : Display) (a : Nat) : (s.setDisp d).readByte a = s.readByte a := rfl
@[simp] theorem State.readByte_rememberKeys (s : State) (a : Nat) : (s.rememberKeys).readByte a = s.readByte a := rfl
@[simp] theorem State.readByte_beginWait (s : State) (r : RegIx) (a : Nat) : (s.beginWait r).readByte a = s.readByte a := rfl
@[simp] theorem State.readByte_endWait (s : State) (a : Nat) : (s.endWait).readByte a = s.readByte a := rfl
@[simp] theorem State.readByte_withOps (s : State) (rest : List HostOp) (a : Nat) : (s.withOps rest).readByte a = s.readByte a := rfl
@[simp] theorem State.readByte_countDraw (s : State) (a : Nat) : (s.countDraw).readByte a = s.readByte a := rfl
@[simp] theorem State.readByte_setRegs (s : State) (v : Vector Byte 16) (a : Nat) :
    (s.setRegs v).readByte a = s.readByte a := rfl

/-- A state's memory depends on its cells and its parameters only. -/
theorem State.readByte_congr {s t : State} (hm : t.mem = s.mem) (hc : t.cfg = s.cfg) (a : Nat) :
    t.readByte a = s.readByte a := by
  simp [State.readByte, hm, hc]

theorem State.readByte_writeByte_of_ne (s : State) {a x : Nat} (b : Byte) (h : a ≠ x) :
    (s.writeByte a b).readByte x = s.readByte x := Memory.read_write_of_ne b h

theorem State.readByte_writeByte_self {s : State} (hm : Memory.wf s.cfg s.mem) (a : Nat) (b : Byte) :
    (s.writeByte a b).readByte a = b := Memory.read_write_self hm.1 a b

/-- A block store leaves every byte outside the block alone. -/
theorem State.readByte_storeBytes_outside (bs : List Byte) (s : State) (a x : Nat)
    (h : x < a ∨ a + bs.length ≤ x) : (s.storeBytes a bs).readByte x = s.readByte x := by
  induction bs generalizing s a with
  | nil => rfl
  | cons b bs ih =>
    simp only [List.length_cons] at h
    rw [State.storeBytes, ih _ _ (by omega), State.readByte_writeByte_of_ne _ _ (by omega)]

/-- The addresses of a memory stay rising under a block store. -/
theorem State.pairwise_storeBytes (bs : List Byte) (s : State) (a : Nat)
    (hm : s.mem.Pairwise fun p q => p.1 < q.1) : (s.storeBytes a bs).mem.Pairwise fun p q => p.1 < q.1 := by
  induction bs generalizing s a with
  | nil => exact hm
  | cons b bs ih => exact ih _ _ (Memory.pairwise_write hm)

/-- A block store puts each byte of the block at its address. -/
theorem State.readByte_storeBytes_inside (bs : List Byte) (s : State) (a k : Nat)
    (hm : s.mem.Pairwise fun p q => p.1 < q.1) (hk : k < bs.length) :
    (s.storeBytes a bs).readByte (a + k) = bs[k] := by
  induction bs generalizing s a k with
  | nil => simp at hk
  | cons b bs ih =>
    rw [State.storeBytes]
    cases k with
    | zero =>
      rw [State.readByte_storeBytes_outside _ _ _ _ (by omega)]
      exact Memory.read_write_self hm a b
    | succ k =>
      have := ih (s.writeByte a b) (a + 1) k (Memory.pairwise_write hm) (by simpa using hk)
      simpa [Nat.add_assoc, Nat.add_comm 1 k] using this

/-- A block store inside the 4096 bytes keeps the canonical form. -/
theorem State.wf_storeBytes (bs : List Byte) (s : State) (a : Nat) (hm : Memory.wf s.cfg s.mem)
    (h : a + bs.length ≤ 0x1000) : Memory.wf s.cfg (s.storeBytes a bs).mem := by
  induction bs generalizing s a with
  | nil => exact hm
  | cons b bs ih =>
    simp only [List.length_cons] at h
    exact ih (s.writeByte a b) (a + 1) (Memory.wf_write hm (by omega) b) (by omega)

@[simp] theorem State.length_readBytes (s : State) (a n : Nat) : (s.readBytes a n).length = n := by
  simp [State.readBytes]

@[simp] theorem State.getElem_readBytes (s : State) (a n k : Nat) (h : k < (s.readBytes a n).length) :
    (s.readBytes a n)[k] = s.readByte (a + k) := by
  simp [State.readBytes]

@[simp] theorem length_bcdDigits (b : Byte) : (bcdDigits b).length = 3 := rfl

@[simp] theorem State.length_regBlock (s : State) (x : RegIx) : (s.regBlock x).length = x.val + 1 := by
  have := x.isLt
  simp [State.regBlock]

theorem State.getElem_regBlock (s : State) (x : RegIx) (k : Nat) (h : k < (s.regBlock x).length) :
    (s.regBlock x)[k] = s.reg ⟨k, by have := x.isLt; simp at h; omega⟩ := by
  simp [State.regBlock, State.reg]

end Sys2Proof.Machine
end

