-- ==== Sys2Proof/Laws/Display.lean ====
section
/-! SUPPORT. The display: pixels after an inversion, the shape, and the blit as a fold of inversions. -/

namespace Sys2Proof.Machine

variable {c : Config}

/-- Inverting twice restores a list of bits. -/
theorem modify_not_not (bits : List Bool) (k : Nat) : (bits.modify k not).modify k not = bits := by
  rw [List.modify_modify_eq, show not ∘ not = id by funext b; simp, List.modify_id]

/-- Inversions of bits of one list may be done in either order. -/
theorem modify_not_comm (bits : List Bool) (j k : Nat) :
    (bits.modify j not).modify k not = (bits.modify k not).modify j not := by
  by_cases h : j = k
  · rw [h]
  · exact List.modify_modify_ne not not bits h

/-- Inverting twice restores the display. -/
@[simp] theorem Display.flip_flip (d : Display) (col row : Nat) : (d.flip col row).flip col row = d := by
  unfold Display.flip
  rw [List.modify_modify_eq]
  have : (fun line : List Bool => line.modify col not) ∘ (fun line => line.modify col not) = id := by
    funext line; exact modify_not_not line col
  rw [this, List.modify_id]

/-- Inversions may be done in either order. -/
theorem Display.flip_comm (d : Display) (c1 r1 c2 r2 : Nat) :
    (d.flip c1 r1).flip c2 r2 = (d.flip c2 r2).flip c1 r1 := by
  unfold Display.flip
  by_cases h : r1 = r2
  · subst h
    rw [List.modify_modify_eq, List.modify_modify_eq]
    congr 1
    funext line; exact modify_not_comm line c1 c2
  · exact List.modify_modify_ne _ _ d h

/-- An inversion keeps the surface's height and width. -/
theorem Display.wf_flip {d : Display} (h : Display.wf c d) (col row : Nat) : Display.wf c (d.flip col row) := by
  refine ⟨by simp [Display.flip, h.1], fun line hl => ?_⟩
  obtain ⟨r, hr, rfl⟩ := List.mem_iff_getElem.mp hl
  simp only [Display.flip, List.getElem_modify]
  have := h.2 (d[r]'(by simpa [Display.flip] using hr)) (List.getElem_mem _)
  split <;> simp [this]

theorem Display.wf_blank : Display.wf c (Display.blank c) := by
  constructor
  · simp [Display.blank]
  · intro line hl
    rw [List.eq_of_mem_replicate hl, List.length_replicate]

@[simp] theorem Display.pixel_blank (col row : Nat) : (Display.blank c).pixel col row = false := by
  simp only [Display.pixel, Display.blank, List.getD_eq_getElem?_getD, List.getElem?_replicate]
  split <;> simp [List.getElem?_replicate]
  split <;> rfl

/-- A pixel of the surface after an inversion: inverted where it is the one named. -/
theorem Display.pixel_flip {d : Display} (h : Display.wf c d) {col row : Nat} (hc : col < c.displayW)
    (hr : row < c.displayH) (k r : Nat) :
    (d.flip col row).pixel k r = (d.pixel k r ^^ decide (k = col ∧ r = row)) := by
  unfold Display.pixel Display.flip
  simp only [List.getD_eq_getElem?_getD, List.getElem?_modify]
  by_cases hrr : row = r
  · subst hrr
    have hlen : row < d.length := by omega
    have hw := h.2 d[row] (List.getElem_mem hlen)
    simp only [List.getElem?_eq_getElem hlen, if_true, Option.map_eq_map, Option.map_some, Option.getD_some, List.getElem?_modify]
    by_cases hk : col = k
    · subst hk
      simp [List.getElem?_eq_getElem (show col < d[row].length by omega)]
    · have : ¬ (k = col) := fun e => hk e.symm
      simp [hk, this]
  · have : ¬ (r = row) := fun e => hrr e.symm
    simp [hrr, this]

/-- The blit's display, as a fold of inversions. -/
theorem blit_display (d : Display) (px : List (Nat × Nat)) :
    (blit d px).1 = px.foldl (fun d p => d.flip p.1 p.2) d := by
  induction px generalizing d with
  | nil => rfl
  | cons p px ih => simp [blit, ih]

/-- The blit keeps the surface's height and width. -/
theorem Display.wf_blit {d : Display} (h : Display.wf c d) (px : List (Nat × Nat)) : Display.wf c (blit d px).1 := by
  induction px generalizing d with
  | nil => exact h
  | cons p px ih => exact ih (Display.wf_flip h p.1 p.2)

/-- Every pixel a sprite row names lies on the surface. -/
theorem mem_rowPixels {x0 y : Nat} {bits : Byte} {p : Nat × Nat} (h : p ∈ rowPixels c x0 y bits) :
    ∃ j < 8, bits.getLsbD (7 - j) = true ∧ p = ((x0 + j) % c.displayW, y % c.displayH) := by
  simp only [rowPixels, List.mem_filterMap, List.mem_range] at h
  obtain ⟨j, hj, h⟩ := h
  split at h
  · next hb => exact ⟨j, hj, hb, (Option.some.inj h).symm⟩
  · simp at h

/-! ### A list of pixels blitted -/

/-- Every pixel of a list lies on the surface. -/
abbrev OnSurface (c : Config) (px : List (Nat × Nat)) : Prop := ∀ p ∈ px, p.1 < c.displayW ∧ p.2 < c.displayH

/-- A pixel after a blit: inverted once for each time the list names it. -/
theorem Display.pixel_blit {px : List (Nat × Nat)} {d : Display} (h : Display.wf c d) (hp : OnSurface c px)
    (col row : Nat) : (blit d px).1.pixel col row = (d.pixel col row ^^ (px.count (col, row) % 2 == 1)) := by
  induction px generalizing d with
  | nil => simp [blit]
  | cons p px ih =>
    obtain ⟨k, r⟩ := p
    have hkr := hp (k, r) (by simp)
    rw [blit, ih (Display.wf_flip h _ _) (fun q hq => hp q (List.mem_cons_of_mem _ hq)),
      Display.pixel_flip h hkr.1 hkr.2, List.count_cons, Bool.xor_assoc]
    congr 1
    by_cases e : col = k ∧ row = r
    · obtain ⟨rfl, rfl⟩ := e
      simp only [and_self, decide_true, beq_self_eq_true, if_true]
      rcases Nat.mod_two_eq_zero_or_one (px.count (col, row)) with h | h <;> simp [h, Nat.add_mod]
    · have : ¬ ((k, r) = (col, row)) := fun e' => e (by simp_all)
      simp [e, this]

/-- A blit's collision: some pixel of the list was on, or is named twice. -/
theorem blit_hit {px : List (Nat × Nat)} {d : Display} (h : Display.wf c d) (hp : OnSurface c px) :
    (blit d px).2 = true ↔ ∃ p ∈ px, d.pixel p.1 p.2 = true ∨ 1 < px.count p := by
  induction px generalizing d with
  | nil => simp [blit]
  | cons p px ih =>
    obtain ⟨k, r⟩ := p
    have hkr := hp (k, r) (by simp)
    have other : ∀ q : Nat × Nat, q ≠ (k, r) → (d.flip k r).pixel q.1 q.2 = d.pixel q.1 q.2 := fun q e => by
      have : ¬ (q.1 = k ∧ q.2 = r) := fun e' => e (Prod.ext e'.1 e'.2)
      rw [Display.pixel_flip h hkr.1 hkr.2]; simp [this]
    rw [blit, Bool.or_eq_true, ih (Display.wf_flip h _ _) (fun q hq => hp q (List.mem_cons_of_mem _ hq))]
    constructor
    · rintro (h1 | ⟨q, hq, h1⟩)
      · exact ⟨(k, r), by simp, .inl h1⟩
      · refine ⟨q, List.mem_cons_of_mem _ hq, ?_⟩
        by_cases e : q = (k, r)
        · subst e
          have := List.count_pos_iff.2 hq
          exact .inr (by rw [List.count_cons_self]; omega)
        · rwa [List.count_cons_of_ne (Ne.symm e), ← other q e]
    · rintro ⟨q, hq, h1⟩
      by_cases e : q = (k, r)
      · subst e
        rw [List.count_cons_self] at h1
        cases hd : d.pixel k r with
        | true => exact .inl rfl
        | false =>
          refine .inr ⟨(k, r), List.count_pos_iff.1 (by simp [hd] at h1; rwa [List.count_pos_iff]), .inl ?_⟩
          rw [Display.pixel_flip h hkr.1 hkr.2]; simp [hd]
      · refine .inr ⟨q, by simpa [e] using hq, ?_⟩
        rwa [List.count_cons_of_ne (Ne.symm e), ← other q e] at h1

/-- Two blits of one list restore the display. -/
theorem blit_blit_display (d : Display) (px : List (Nat × Nat)) : (blit (blit d px).1 px).1 = d := by
  rw [blit_display, blit_display]
  induction px generalizing d with
  | nil => rfl
  | cons p px ih =>
    have comm : ∀ (l : List (Nat × Nat)) (d : Display), (l.foldl (fun d q => d.flip q.1 q.2) d).flip p.1 p.2 =
        l.foldl (fun d q => d.flip q.1 q.2) (d.flip p.1 p.2) := by
      intro l
      induction l with
      | nil => intro d; rfl
      | cons q l ih => intro d; simp only [List.foldl_cons]; rw [ih, Display.flip_comm]
    simp only [List.foldl_cons]
    rw [comm, Display.flip_flip, ih]

/-! ### The pixels of a sprite -/

/-- A sprite's row names a pixel once for each set bit that lands on it. -/
theorem count_rowPixels (x0 y : Nat) (b : Byte) (col row : Nat) :
    (rowPixels c x0 y b).count (col, row) = (List.range 8).countP fun j =>
      b.getLsbD (7 - j) && (x0 + j) % c.displayW == col && y % c.displayH == row := by
  unfold rowPixels
  rw [List.count, List.countP_filterMap]
  refine List.countP_congr fun j _ => ?_
  by_cases hb : b.getLsbD (7 - j) <;> simp [hb]

/-- A sprite names a pixel once for each set bit that lands on it. -/
theorem count_spritePixels (x0 y0 : Nat) (rows : List Byte) (col row : Nat) :
    (spritePixels c x0 y0 rows).count (col, row) =
      ((List.range rows.length).map fun i => (List.range 8).countP fun j =>
        (rows.getD i 0).getLsbD (7 - j) && (x0 + j) % c.displayW == col && (y0 + i) % c.displayH == row).sum := by
  induction rows generalizing y0 with
  | nil => rfl
  | cons b rows ih =>
    rw [spritePixels, List.count_append, count_rowPixels, ih, List.length_cons,
      List.range_succ_eq_map (n := rows.length), List.map_cons, List.sum_cons, List.map_map]
    congr 1
    simp only [Function.comp_def, Nat.succ_eq_add_one, List.getD_cons_succ, Nat.add_assoc, Nat.add_comm 1]

/-- A pixel a sprite names lies on one of its rows. -/
theorem mem_spritePixels {x0 y0 : Nat} {rows : List Byte} {p : Nat × Nat} (h : p ∈ spritePixels c x0 y0 rows) :
    ∃ i < rows.length, ∃ j < 8, p = ((x0 + j) % c.displayW, (y0 + i) % c.displayH) := by
  induction rows generalizing y0 with
  | nil => simp [spritePixels] at h
  | cons b rows ih =>
    rcases List.mem_append.1 h with h | h
    · obtain ⟨j, hj, -, rfl⟩ := mem_rowPixels h
      exact ⟨0, by simp, j, hj, rfl⟩
    · obtain ⟨i, hi, j, hj, rfl⟩ := ih h
      exact ⟨i + 1, by simpa using hi, j, hj, by rw [Nat.add_assoc, Nat.add_comm 1]⟩

/-- Every pixel a sprite names lies on the surface. -/
theorem onSurface_spritePixels (hW : 0 < c.displayW) (hH : 0 < c.displayH) (x0 y0 : Nat) (rows : List Byte) :
    OnSurface c (spritePixels c x0 y0 rows) := by
  intro p hp
  obtain ⟨i, -, j, -, rfl⟩ := mem_spritePixels hp
  exact ⟨Nat.mod_lt _ hW, Nat.mod_lt _ hH⟩

/-- Two offsets below the modulus that land on the same place are equal. -/
theorem add_mod_inj {m a i j : Nat} (hi : i < m) (hj : j < m) (h : (a + i) % m = (a + j) % m) : i = j := by
  have h := Nat.ModEq.add_left_cancel' a h
  rwa [Nat.ModEq, Nat.mod_eq_of_lt hi, Nat.mod_eq_of_lt hj] at h

/-- On a surface at least 8 wide, a sprite's row names no pixel twice. -/
theorem nodup_rowPixels (hW : 8 ≤ c.displayW) (x0 y : Nat) (b : Byte) : (rowPixels c x0 y b).Nodup := by
  rw [List.nodup_iff_count_le_one]
  rintro ⟨col, row⟩
  rw [count_rowPixels]
  refine Nat.le_trans (List.countP_mono_left (q := fun j => (x0 + j) % c.displayW == col) ?_) ?_
  · simp +contextual
  · have : (List.range 8).countP (fun j => (x0 + j) % c.displayW == col) =
        ((List.range 8).map fun j => (x0 + j) % c.displayW).count col := by
      rw [List.count, List.countP_map]; rfl
    rw [this]
    refine List.nodup_iff_count_le_one.1 (List.Nodup.map_on ?_ List.nodup_range) col
    intro i hi j hj h
    rw [List.mem_range] at hi hj
    exact add_mod_inj (by omega) (by omega) h

/-- On a surface at least 8 wide and as high as the sprite, the sprite names no pixel twice. -/
theorem nodup_spritePixels (hW : 8 ≤ c.displayW) (x0 y0 : Nat) (rows : List Byte) (h : rows.length ≤ c.displayH) :
    (spritePixels c x0 y0 rows).Nodup := by
  induction rows generalizing y0 with
  | nil => simp [spritePixels]
  | cons b rows ih =>
    rw [spritePixels, List.nodup_append]
    simp only [List.length_cons] at h
    refine ⟨nodup_rowPixels hW _ _ _, ih _ (by omega), ?_⟩
    rintro p hp q hq rfl
    obtain ⟨j, -, -, rfl⟩ := mem_rowPixels hp
    obtain ⟨i, hi, k, -, e⟩ := mem_spritePixels hq
    have e : (y0 + 0) % c.displayH = (y0 + (1 + i)) % c.displayH := by
      rw [← Nat.add_assoc]; exact congrArg Prod.snd e
    have := add_mod_inj (by omega) (by omega) e
    omega

end Sys2Proof.Machine
end

