-- ==== Sys2Proof/Laws/Ops.lean ====
section
/-! SUPPORT. What each shared operation can do, said once: the address check, push and pop, a failure, and the
operations of the host. -/

namespace Sys2Proof.Machine

/-- A state after `raise` is the halted state of 60_exceptions R204. -/
theorem State.raise_haltsWith (s : State) (f : FailureCode) (w addr : Word) :
    HaltsWith f.number w addr s (s.raise f w addr) := by
  refine ⟨rfl, rfl, rfl, fun p hp => ?_⟩
  cases p <;> first | rfl | exact fun _ => rfl | exact ⟨rfl, rfl⟩ | exact ⟨rfl, rfl, rfl⟩ | simp at hp

@[simp] theorem mayRead_eq (a : Nat) : mayRead a = decide (a < 0x1000) := rfl

theorem mayStore_iff (c : Config) (a : Nat) :
    mayStore c a = true ↔ a < 0x1000 ∧ (c.protectReserved = true → 0x200 ≤ a) := by
  simp [mayStore]
  cases c.protectReserved <;> simp

theorem State.mem_addresses {s : State} {n a : Nat} : a ∈ s.addresses n ↔ ∃ k < n, a = s.i.toNat + k := by
  simp [State.addresses, eq_comm]

/-- The address check: every address passed and the effect is the answer, or the first that failed is reported and
nothing else is changed. -/
theorem State.checked_cases (s : State) (addrs : List Nat) (ok : Nat → Bool) (w : Word) (e : State) :
    ((∀ a ∈ addrs, ok a = true) ∧ s.checked addrs ok w e = e) ∨
      ∃ before a after, addrs = before ++ a :: after ∧ (∀ b ∈ before, ok b = true) ∧ ok a = false ∧
        s.checked addrs ok w e = s.raise .addressOutOfRange w (BitVec.ofNat 16 a) := by
  unfold State.checked
  cases h : addrs.find? fun a => !ok a with
  | none => exact .inl ⟨by simpa using h, rfl⟩
  | some a =>
    obtain ⟨ha, before, after, e, hb⟩ := List.find?_eq_some_iff_append.mp h
    exact .inr ⟨before, a, after, e, by simpa using hb, by simpa using ha, rfl⟩

/-- Where every address passes, the effect is the answer. -/
theorem State.checked_ok (s : State) {addrs : List Nat} {ok : Nat → Bool} (w : Word) (e : State)
    (h : ∀ a ∈ addrs, ok a = true) : s.checked addrs ok w e = e := by
  unfold State.checked
  rw [List.find?_eq_none.mpr (by simpa using h)]

/-- Where the `k`-th address through I is the first that fails, it is the one reported. -/
theorem State.checked_fail (s : State) {n k : Nat} {ok : Nat → Bool} (w : Word) (e : State) (hk : k < n)
    (hbefore : ∀ j < k, ok (s.i.toNat + j) = true) (hfail : ok (s.i.toNat + k) = false) :
    s.checked (s.addresses n) ok w e = s.raise .addressOutOfRange w (BitVec.ofNat 16 (s.i.toNat + k)) := by
  have : (s.addresses n).find? (fun a => !ok a) = some (s.i.toNat + k) := by
    rw [State.addresses, List.find?_map]
    have : (List.range n).find? ((fun a => !ok a) ∘ fun j => s.i.toNat + j) = some k := by
      rw [List.find?_range_eq_some]
      exact ⟨by simp [hfail], by simpa using hk, fun j hj => by simp [hbefore j hj]⟩
    rw [this]; rfl
  rw [State.checked, this]

/-- CALL's push: the slot, SP, and nothing else, or nothing at all with 16 addresses pushed. -/
theorem State.push_cases (s : State) (w : Word) :
    (∃ h : s.sp.val < 16, s.push w =
        some { s with stack := s.stack.set s.sp.val w, sp := ⟨s.sp.val + 1, by omega⟩ }) ∨
      s.sp = 16 ∧ s.push w = none := by
  unfold State.push
  by_cases h : s.sp.val < 16
  · exact .inl ⟨h, by simp [h]⟩
  · exact .inr ⟨Fin.ext (by have := s.sp.isLt; simp; omega), by simp [h]⟩

/-- RET's pop: the most recent address, SP, and nothing else, or nothing at all with none pushed. -/
theorem State.pop_cases (s : State) :
    (∃ h : 0 < s.sp.val, s.pop = some (s.stack[s.sp.val - 1], { s with sp := ⟨s.sp.val - 1, by omega⟩ })) ∨
      s.sp = 0 ∧ s.pop = none := by
  unfold State.pop
  by_cases h : 0 < s.sp.val
  · exact .inl ⟨h, by simp [h]⟩
  · exact .inr ⟨Fin.ext (by simp; omega), by simp [h]⟩

/-- What a step can do: nothing with bad parameters, one STEP, or one other operation of the host. -/
theorem step_cases (s : State) :
    (s.cfg.wf = false ∧ step s = .refused .badConfiguration) ∨
      (s.cfg.wf = true ∧
        ((∃ s', TakesStep s s' ∧ step s = s'.cycle) ∨
          (∃ rest, s.ops = .tick :: rest ∧ step s = .next (s.withOps rest).doTick) ∨
          (∃ rest, s.ops = .reset :: rest ∧ step s = .next (s.withOps rest).doReset) ∨
          ∃ image rest, s.ops = .load image :: rest ∧ step s = (s.withOps rest).doLoad image)) := by
  unfold step State.operation
  by_cases hc : s.cfg.wf
  · refine .inr ⟨hc, ?_⟩
    rw [if_pos hc, State.hostOperation]
    split
    · next h => exact .inl ⟨_, .inr ⟨h, rfl⟩, rfl⟩
    · next ks r rest h => exact .inl ⟨_, .inl ⟨ks, r, rest, h, rfl⟩, rfl⟩
    · next rest h => exact .inr (.inl ⟨rest, h, rfl⟩)
    · next rest h => exact .inr (.inr (.inl ⟨rest, h, rfl⟩))
    · next image rest h => exact .inr (.inr (.inr ⟨image, rest, h, rfl⟩))
  · exact .inl ⟨by simpa using hc, by rw [if_neg hc]⟩

/-- A STEP changes no part of the state before it runs, but its inputs and the host's queue. -/
theorem TakesStep.keeps {s s' : State} (h : TakesStep s s') : KeepsAllBut [.inputs, .host] s s' := by
  rcases h with ⟨ks, r, rest, -, rfl⟩ | ⟨-, rfl⟩ <;>
  · intro p hp
    cases p <;> first | rfl | exact fun _ => rfl | simp at hp

/-- A STEP's inputs are taken in one way only. -/
theorem TakesStep.unique {s a b : State} (ha : TakesStep s a) (hb : TakesStep s b) : a = b := by
  rcases ha with ⟨k, r, l, h, rfl⟩ | ⟨h, rfl⟩ <;> rcases hb with ⟨k', r', l', h', rfl⟩ | ⟨h', rfl⟩ <;>
    rw [h] at h' <;> first | rfl | (injection h' with h1 h2; injection h1 with h3 h4; subst h2 h3 h4; rfl) | simp at h'

/-- Under good parameters, a STEP is the cycle of the state with its inputs taken in. -/
theorem step_eq_cycle {s s' : State} (hc : s.cfg.wf = true) (h : TakesStep s s') : step s = s'.cycle := by
  unfold step State.operation
  rw [if_pos hc, State.hostOperation]
  rcases h with ⟨ks, r, rest, h, rfl⟩ | ⟨h, rfl⟩
  · rw [h]; rfl
  · split
    · rfl
    all_goals simp_all

/-- Under good parameters, a TICK at the head of the queue is run. -/
theorem step_eq_tick {s : State} {rest : List HostOp} (hc : s.cfg.wf = true) (h : s.ops = .tick :: rest) :
    step s = .next (s.withOps rest).doTick := by
  unfold step State.operation
  rw [if_pos hc, State.hostOperation, h]

/-- Under good parameters, a RESET at the head of the queue is run. -/
theorem step_eq_reset {s : State} {rest : List HostOp} (hc : s.cfg.wf = true) (h : s.ops = .reset :: rest) :
    step s = .next (s.withOps rest).doReset := by
  unfold step State.operation
  rw [if_pos hc, State.hostOperation, h]

/-- Under good parameters, a LOAD at the head of the queue is run. -/
theorem step_eq_load {s : State} {image : List Byte} {rest : List HostOp} (hc : s.cfg.wf = true)
    (h : s.ops = .load image :: rest) : step s = (s.withOps rest).doLoad image := by
  unfold step State.operation
  rw [if_pos hc, State.hostOperation, h]

/-- Taking in a STEP's inputs leaves every field alone but the inputs and the host's queue. -/
theorem TakesStep.fields {s s' : State} (h : TakesStep s s') :
    s'.v = s.v ∧ s'.i = s.i ∧ s'.pc = s.pc ∧ s'.sp = s.sp ∧ s'.stack = s.stack ∧ s'.dt = s.dt ∧ s'.st = s.st ∧
      s'.disp = s.disp ∧ s'.mem = s.mem ∧ s'.rs = s.rs ∧ s'.kl = s.kl ∧ s'.sr = s.sr ∧ s'.cfg = s.cfg ∧
      s'.result = s.result ∧ s'.fetchWord = s.fetchWord := by
  rcases h with ⟨ks, r, rest, -, rfl⟩ | ⟨-, rfl⟩ <;>
    exact ⟨rfl, rfl, rfl, rfl, rfl, rfl, rfl, rfl, rfl, rfl, rfl, rfl, rfl, rfl, rfl⟩

/-- One timer's tick, on the numbers. -/
theorem toNat_tickTimer (t : Byte) : (tickTimer t).toNat = t.toNat - 1 := by
  unfold tickTimer
  split
  · next h => simp [h]
  · next h =>
    have h0 : t.toNat ≠ 0 := fun e => h (BitVec.eq_of_toNat_eq e)
    have := t.isLt
    simp [BitVec.toNat_sub]
    omega

/-- TICK on a machine that is not HALTED. -/
theorem State.doTick_of_not_halted {s : State} (h : s.rs ≠ .halted) :
    s.doTick = ((s.setDt (tickTimer s.dt)).setSt (tickTimer s.st)).answer .none := by
  unfold State.doTick
  split
  · next e => exact absurd e h
  · rfl
  · rfl

end Sys2Proof.Machine
end

