-- ==== Sys2Proof/Laws/Decode.lean ====
section
/-! SUPPORT. The decoder's fields of a word written in one of the formats of 30_encoding R78. -/

namespace Sys2Proof

theorem slice_eq (w : Word) (hi lo : Nat) : slice w hi lo = w.toNat / 2 ^ lo % 2 ^ (hi + 1 - lo) := by
  rw [slice, Nat.shiftRight_eq_div_pow]

theorem fields_eq (w : Word) :
    (fields w).cls.val = w.toNat / 0x1000 % 16 ∧ (fields w).x.val = w.toNat / 0x100 % 16 ∧
      (fields w).y.val = w.toNat / 0x10 % 16 ∧ (fields w).n.val = w.toNat % 16 ∧
      (fields w).kk.toNat = w.toNat % 256 ∧ (fields w).nnn.toNat = w.toNat % 4096 := by
  have := w.isLt
  simp [fields, slice_eq]

theorem toNat_wordNNN {c : Nat} (hc : c < 16) (nnn : Addr) :
    (wordNNN c nnn).toNat = c * 0x1000 + nnn.toNat := by
  have := nnn.isLt
  rw [wordNNN, BitVec.toNat_ofNat, Nat.mod_eq_of_lt]; omega

theorem toNat_wordXKK {c : Nat} (hc : c < 16) (x : RegIx) (kk : Byte) :
    (wordXKK c x kk).toNat = c * 0x1000 + x.val * 0x100 + kk.toNat := by
  have := kk.isLt; have := x.isLt
  rw [wordXKK, BitVec.toNat_ofNat, Nat.mod_eq_of_lt]; omega

theorem toNat_wordXYN {c : Nat} (hc : c < 16) (x y n : Fin 16) :
    (wordXYN c x y n).toNat = c * 0x1000 + x.val * 0x100 + y.val * 0x10 + n.val := by
  have := n.isLt; have := x.isLt; have := y.isLt
  rw [wordXYN, BitVec.toNat_ofNat, Nat.mod_eq_of_lt]; omega

/-- Format NNN: the class and the address. -/
theorem fields_wordNNN {c : Nat} (hc : c < 16) (nnn : Addr) :
    (fields (wordNNN c nnn)).cls.val = c ∧ (fields (wordNNN c nnn)).nnn = nnn := by
  obtain ⟨h1, -, -, -, -, h6⟩ := fields_eq (wordNNN c nnn)
  rw [toNat_wordNNN hc] at h1 h6
  have := nnn.isLt
  refine ⟨by omega, BitVec.eq_of_toNat_eq (by omega)⟩

/-- Formats XKK and XSS: the class, the register, and the immediate or sub-op. -/
theorem fields_wordXKK {c : Nat} (hc : c < 16) (x : RegIx) (kk : Byte) :
    (fields (wordXKK c x kk)).cls.val = c ∧ (fields (wordXKK c x kk)).x = x ∧
      (fields (wordXKK c x kk)).kk = kk := by
  obtain ⟨h1, h2, -, -, h5, -⟩ := fields_eq (wordXKK c x kk)
  rw [toNat_wordXKK hc] at h1 h2 h5
  have := kk.isLt; have := x.isLt
  exact ⟨by omega, Fin.ext (by omega), BitVec.eq_of_toNat_eq (by omega)⟩

/-- Formats XYS and XYN: the class, both registers, and the sub-op or count. -/
theorem fields_wordXYN {c : Nat} (hc : c < 16) (x y n : Fin 16) :
    (fields (wordXYN c x y n)).cls.val = c ∧ (fields (wordXYN c x y n)).x = x ∧
      (fields (wordXYN c x y n)).y = y ∧ (fields (wordXYN c x y n)).n = n := by
  obtain ⟨h1, h2, h3, h4, -, -⟩ := fields_eq (wordXYN c x y n)
  rw [toNat_wordXYN hc] at h1 h2 h3 h4
  have := n.isLt; have := x.isLt; have := y.isLt
  exact ⟨by omega, Fin.ext (by omega), Fin.ext (by omega), Fin.ext (by omega)⟩

/-! ### The masks of 30_encoding R71 -/

/-- A mask of `k` ones at bit `lo` keeps that many digits in their place. -/
theorem toNat_and_mask (w : Word) (lo k m : Nat) (hm : m = (2 ^ k - 1) <<< lo) :
    (w.toNat &&& m) = w.toNat / 2 ^ lo % 2 ^ k * 2 ^ lo := by
  subst hm
  rw [← Nat.shiftRight_eq_div_pow, ← Nat.and_two_pow_sub_one_eq_mod, ← Nat.shiftLeft_eq,
    Nat.shiftLeft_and_distrib]
  apply Nat.eq_of_testBit_eq
  intro i
  simp only [Nat.testBit_and, Nat.testBit_shiftLeft, Nat.testBit_shiftRight]
  by_cases h : lo ≤ i <;> simp [h]

theorem toNat_and_F000 (w : Word) : (w &&& 0xF000).toNat = w.toNat / 0x1000 % 16 * 0x1000 := by
  simpa using toNat_and_mask w 12 4 0xF000 (by decide)
theorem toNat_and_0F00 (w : Word) : (w &&& 0x0F00).toNat = w.toNat / 0x100 % 16 * 0x100 := by
  simpa using toNat_and_mask w 8 4 0xF00 (by decide)
theorem toNat_and_00F0 (w : Word) : (w &&& 0x00F0).toNat = w.toNat / 0x10 % 16 * 0x10 := by
  simpa using toNat_and_mask w 4 4 0xF0 (by decide)
theorem toNat_and_000F (w : Word) : (w &&& 0x000F).toNat = w.toNat % 16 := by
  simpa using toNat_and_mask w 0 4 0xF (by decide)
theorem toNat_and_00FF (w : Word) : (w &&& 0x00FF).toNat = w.toNat % 256 := by
  simpa using toNat_and_mask w 0 8 0xFF (by decide)
theorem toNat_and_0FFF (w : Word) : (w &&& 0x0FFF).toNat = w.toNat % 4096 := by
  simpa using toNat_and_mask w 0 12 0xFFF (by decide)
theorem toNat_and_FFF0 (w : Word) : (w &&& 0xFFF0).toNat = w.toNat / 16 * 16 := by
  have := toNat_and_mask w 4 12 0xFFF0 (by decide)
  have := w.isLt
  simp at *; omega

/-- The class of a word, by its mask. -/
theorem and_F000_eq_iff (w : Word) {c : Nat} (hc : c < 16) :
    w &&& 0xF000 = BitVec.ofNat 16 (c * 0x1000) ↔ (fields w).cls.val = c := by
  rw [(fields_eq w).1]
  constructor
  · intro h
    have := congrArg BitVec.toNat h
    rw [toNat_and_F000] at this
    simp at this; omega
  · intro h
    apply BitVec.eq_of_toNat_eq
    rw [toNat_and_F000]
    simp; omega

/-- The fields of a word given as a number. -/
theorem fields_ofNat {w : Nat} (hw : w < 0x10000) :
    fields (BitVec.ofNat 16 w) = ⟨Fin.ofNat 16 (w / 0x1000), Fin.ofNat 16 (w / 0x100), Fin.ofNat 16 (w / 0x10),
      Fin.ofNat 16 w, BitVec.ofNat 8 w, BitVec.ofNat 12 w⟩ := by
  obtain ⟨h1, h2, h3, h4, h5, h6⟩ := fields_eq (BitVec.ofNat 16 w)
  simp only [BitVec.toNat_ofNat, Nat.reducePow, Nat.mod_eq_of_lt hw] at *
  cases hf : fields (BitVec.ofNat 16 w)
  rw [hf] at h1 h2 h3 h4 h5 h6
  simp only [Fields.mk.injEq]
  refine ⟨Fin.ext ?_, Fin.ext ?_, Fin.ext ?_, Fin.ext ?_, BitVec.eq_of_toNat_eq ?_, BitVec.eq_of_toNat_eq ?_⟩ <;>
    simp <;> omega

end Sys2Proof
end

