-- ==== Sys2Proof/Laws/PerInstr.lean ====
section
/-! SUPPORT. Per instruction: what the decoder's fields are for the instruction's own word, in the instruction's format
(30_encoding R78) and with the fixed bits of its row of the opcode table (R83). -/

namespace Sys2Proof.Laws.FieldsOfWord

/-- An instruction's format with its fixed and its operand fields. -/
inductive Layout where
  | fixed (w : Word)
  | nnn (c : Nat) (a : Addr)
  | xkk (c : Nat) (x : RegIx) (kk : Byte)
  | xyn (c : Nat) (x y n : Fin 16)
deriving DecidableEq, Repr

/-- The layout of each row of the opcode table. -/
def layout : Instr → Layout
  | .cls => .fixed 0x00E0#16
  | .ret => .fixed 0x00EE#16
  | .sys nnn => .nnn 0x0 nnn
  | .jpAddr nnn => .nnn 0x1 nnn
  | .call nnn => .nnn 0x2 nnn
  | .seImm x kk => .xkk 0x3 x kk
  | .sneImm x kk => .xkk 0x4 x kk
  | .seReg x y => .xyn 0x5 x y 0x0
  | .ldImm x kk => .xkk 0x6 x kk
  | .addImm x kk => .xkk 0x7 x kk
  | .ldReg x y => .xyn 0x8 x y 0x0
  | .or x y => .xyn 0x8 x y 0x1
  | .and x y => .xyn 0x8 x y 0x2
  | .xor x y => .xyn 0x8 x y 0x3
  | .addReg x y => .xyn 0x8 x y 0x4
  | .sub x y => .xyn 0x8 x y 0x5
  | .shr x y => .xyn 0x8 x y 0x6
  | .subn x y => .xyn 0x8 x y 0x7
  | .shl x y => .xyn 0x8 x y 0xE
  | .sneReg x y => .xyn 0x9 x y 0x0
  | .ldI nnn => .nnn 0xA nnn
  | .jpV0 nnn => .nnn 0xB nnn
  | .rnd x kk => .xkk 0xC x kk
  | .drw x y n => .xyn 0xD x y n
  | .skp x => .xkk 0xE x 0x9E#8
  | .sknp x => .xkk 0xE x 0xA1#8
  | .ldVxDt x => .xkk 0xF x 0x07#8
  | .ldVxK x => .xkk 0xF x 0x0A#8
  | .ldDtVx x => .xkk 0xF x 0x15#8
  | .ldStVx x => .xkk 0xF x 0x18#8
  | .addIVx x => .xkk 0xF x 0x1E#8
  | .ldFVx x => .xkk 0xF x 0x29#8
  | .ldBVx x => .xkk 0xF x 0x33#8
  | .ldMemVx x => .xkk 0xF x 0x55#8
  | .ldVxMem x => .xkk 0xF x 0x65#8

/-- The fields of a word are those of a layout. -/
abbrev Layout.fits (w : Word) : Layout → Prop
  | .fixed v => w = v
  | .nnn c a => (fields w).cls.val = c ∧ (fields w).nnn = a
  | .xkk c x kk => (fields w).cls.val = c ∧ (fields w).x = x ∧ (fields w).kk = kk
  | .xyn c x y n => (fields w).cls.val = c ∧ (fields w).x = x ∧ (fields w).y = y ∧ (fields w).n = n

/-- The instruction's word has the fields of the instruction's layout. -/
def Statement (i : Instr) : Prop := (layout i).fits (encode i)

theorem cls : Statement .cls :=
  rfl
theorem ret : Statement .ret :=
  rfl
theorem sys (nnn : Addr) : Statement (.sys nnn) :=
  fields_wordNNN (by decide) nnn
theorem jpAddr (nnn : Addr) : Statement (.jpAddr nnn) :=
  fields_wordNNN (by decide) nnn
theorem call (nnn : Addr) : Statement (.call nnn) :=
  fields_wordNNN (by decide) nnn
theorem seImm (x : RegIx) (kk : Byte) : Statement (.seImm x kk) :=
  fields_wordXKK (by decide) x kk
theorem sneImm (x : RegIx) (kk : Byte) : Statement (.sneImm x kk) :=
  fields_wordXKK (by decide) x kk
theorem seReg (x : RegIx) (y : RegIx) : Statement (.seReg x y) :=
  fields_wordXYN (by decide) x y _
theorem ldImm (x : RegIx) (kk : Byte) : Statement (.ldImm x kk) :=
  fields_wordXKK (by decide) x kk
theorem addImm (x : RegIx) (kk : Byte) : Statement (.addImm x kk) :=
  fields_wordXKK (by decide) x kk
theorem ldReg (x : RegIx) (y : RegIx) : Statement (.ldReg x y) :=
  fields_wordXYN (by decide) x y _
theorem or (x : RegIx) (y : RegIx) : Statement (.or x y) :=
  fields_wordXYN (by decide) x y _
theorem and (x : RegIx) (y : RegIx) : Statement (.and x y) :=
  fields_wordXYN (by decide) x y _
theorem xor (x : RegIx) (y : RegIx) : Statement (.xor x y) :=
  fields_wordXYN (by decide) x y _
theorem addReg (x : RegIx) (y : RegIx) : Statement (.addReg x y) :=
  fields_wordXYN (by decide) x y _
theorem sub (x : RegIx) (y : RegIx) : Statement (.sub x y) :=
  fields_wordXYN (by decide) x y _
theorem shr (x : RegIx) (y : RegIx) : Statement (.shr x y) :=
  fields_wordXYN (by decide) x y _
theorem subn (x : RegIx) (y : RegIx) : Statement (.subn x y) :=
  fields_wordXYN (by decide) x y _
theorem shl (x : RegIx) (y : RegIx) : Statement (.shl x y) :=
  fields_wordXYN (by decide) x y _
theorem sneReg (x : RegIx) (y : RegIx) : Statement (.sneReg x y) :=
  fields_wordXYN (by decide) x y _
theorem ldI (nnn : Addr) : Statement (.ldI nnn) :=
  fields_wordNNN (by decide) nnn
theorem jpV0 (nnn : Addr) : Statement (.jpV0 nnn) :=
  fields_wordNNN (by decide) nnn
theorem rnd (x : RegIx) (kk : Byte) : Statement (.rnd x kk) :=
  fields_wordXKK (by decide) x kk
theorem drw (x : RegIx) (y : RegIx) (n : Fin 16) : Statement (.drw x y n) :=
  fields_wordXYN (by decide) x y n
theorem skp (x : RegIx) : Statement (.skp x) :=
  fields_wordXKK (by decide) x _
theorem sknp (x : RegIx) : Statement (.sknp x) :=
  fields_wordXKK (by decide) x _
theorem ldVxDt (x : RegIx) : Statement (.ldVxDt x) :=
  fields_wordXKK (by decide) x _
theorem ldVxK (x : RegIx) : Statement (.ldVxK x) :=
  fields_wordXKK (by decide) x _
theorem ldDtVx (x : RegIx) : Statement (.ldDtVx x) :=
  fields_wordXKK (by decide) x _
theorem ldStVx (x : RegIx) : Statement (.ldStVx x) :=
  fields_wordXKK (by decide) x _
theorem addIVx (x : RegIx) : Statement (.addIVx x) :=
  fields_wordXKK (by decide) x _
theorem ldFVx (x : RegIx) : Statement (.ldFVx x) :=
  fields_wordXKK (by decide) x _
theorem ldBVx (x : RegIx) : Statement (.ldBVx x) :=
  fields_wordXKK (by decide) x _
theorem ldMemVx (x : RegIx) : Statement (.ldMemVx x) :=
  fields_wordXKK (by decide) x _
theorem ldVxMem (x : RegIx) : Statement (.ldVxMem x) :=
  fields_wordXKK (by decide) x _

end Sys2Proof.Laws.FieldsOfWord
end

