-- ==== Sys2Proof/Tests/Slice0.lean ====
section
/-! SUPPORT. The model's own tests: ill-formed terms, one written-out word per constructor, one step per instruction
with the values of spec/95_test_vectors, and for every statement with hypotheses a witness that meets them. -/

set_option maxRecDepth 20000

namespace Sys2Proof.Tests

open Sys2Proof Sys2Proof.Machine Sys2Proof.Claims

/-! ### Well-formedness -/

theorem test_ill_formed_sys_of_cls : (Instr.sys 0x0E0).wf = false := by decide
theorem test_ill_formed_sys_of_ret : (Instr.sys 0x0EE).wf = false := by decide
theorem test_ill_formed_width : { Config.default with displayW := 0 }.wf = false := by decide
theorem test_ill_formed_height : { Config.default with displayH := 0 }.wf = false := by decide
theorem test_ill_formed_font : { Config.default with fontBase := 0x1B1 }.wf = false := by decide
theorem test_well_formed_font_edge : { Config.default with fontBase := 0x1B0 }.wf = true := by decide

/-! ### Decoding: a word of every row of 30_encoding R83, bit by bit -/

theorem test_decode_cls : decode false 0b0000000011100000#16 = .instr (.cls) := by decide
theorem test_decode_ret : decode false 0b0000000011101110#16 = .instr (.ret) := by decide
theorem test_decode_sys : decode false 0b0000111011100000#16 = .instr (.sys 0xEE0) := by decide
theorem test_decode_jpAddr : decode false 0b0001001000110100#16 = .instr (.jpAddr 0x234) := by decide
theorem test_decode_call : decode false 0b0010001000010000#16 = .instr (.call 0x210) := by decide
theorem test_decode_seImm : decode false 0b0011101001000010#16 = .instr (.seImm 0xA 0x42) := by decide
theorem test_decode_sneImm : decode false 0b0100111100000001#16 = .instr (.sneImm 0xF 0x01) := by decide
theorem test_decode_seReg : decode false 0b0101000100100001#16 = .instr (.seReg 1 2) := by decide
theorem test_decode_ldImm : decode false 0b0110111100010010#16 = .instr (.ldImm 0xF 0x12) := by decide
theorem test_decode_addImm : decode false 0b0111000011111111#16 = .instr (.addImm 0 0xFF) := by decide
theorem test_decode_ldReg : decode false 0b1000101010110000#16 = .instr (.ldReg 0xA 0xB) := by decide
theorem test_decode_or : decode false 0b1000101010110001#16 = .instr (.or 0xA 0xB) := by decide
theorem test_decode_and : decode false 0b1000101010110010#16 = .instr (.and 0xA 0xB) := by decide
theorem test_decode_xor : decode false 0b1000101010110011#16 = .instr (.xor 0xA 0xB) := by decide
theorem test_decode_addReg : decode false 0b1000101010110100#16 = .instr (.addReg 0xA 0xB) := by decide
theorem test_decode_sub : decode false 0b1000101010110101#16 = .instr (.sub 0xA 0xB) := by decide
theorem test_decode_shr : decode false 0b1000101010110110#16 = .instr (.shr 0xA 0xB) := by decide
theorem test_decode_subn : decode false 0b1000101010110111#16 = .instr (.subn 0xA 0xB) := by decide
theorem test_decode_shl : decode false 0b1000101010111110#16 = .instr (.shl 0xA 0xB) := by decide
theorem test_decode_sneReg : decode false 0b1001000100100000#16 = .instr (.sneReg 1 2) := by decide
theorem test_decode_ldI : decode false 0b1010000100100011#16 = .instr (.ldI 0x123) := by decide
theorem test_decode_jpV0 : decode false 0b1011010111111111#16 = .instr (.jpV0 0x5FF) := by decide
theorem test_decode_rnd : decode false 0b1100001100001111#16 = .instr (.rnd 3 0x0F) := by decide
theorem test_decode_drw : decode false 0b1101000000011111#16 = .instr (.drw 0 1 0xF) := by decide
theorem test_decode_skp : decode false 0b1110001010011110#16 = .instr (.skp 2) := by decide
theorem test_decode_sknp : decode false 0b1110001010100001#16 = .instr (.sknp 2) := by decide
theorem test_decode_ldVxDt : decode false 0b1111010100000111#16 = .instr (.ldVxDt 5) := by decide
theorem test_decode_ldVxK : decode false 0b1111001100001010#16 = .instr (.ldVxK 3) := by decide
theorem test_decode_ldDtVx : decode false 0b1111000100010101#16 = .instr (.ldDtVx 1) := by decide
theorem test_decode_ldStVx : decode false 0b1111000100011000#16 = .instr (.ldStVx 1) := by decide
theorem test_decode_addIVx : decode false 0b1111001000011110#16 = .instr (.addIVx 2) := by decide
theorem test_decode_ldFVx : decode false 0b1111011000101001#16 = .instr (.ldFVx 6) := by decide
theorem test_decode_ldBVx : decode false 0b1111011100110011#16 = .instr (.ldBVx 7) := by decide
theorem test_decode_ldMemVx : decode false 0b1111001001010101#16 = .instr (.ldMemVx 2) := by decide
theorem test_decode_ldVxMem : decode false 0b1111111101100101#16 = .instr (.ldVxMem 0xF) := by decide

/-- Words that are UNKNOWN (R84), two of class 8, two of class E, two of class F; and the strict reading of 5xyN and 9xyN. -/
theorem test_decode_unknown : [0x800F#16, 0x8AB8#16, 0xE09F#16, 0xE000#16, 0xF000#16, 0xFFFF#16].all (isUnknown false) = true := by
  decide
theorem test_decode_strict : isUnknown true 0x5121#16 = true ∧ isUnknown true 0x9121#16 = true ∧
    decode true 0x9120#16 = .instr (.sneReg 1 2) := by decide
/-- The decoder on bytes takes two of them, the first the high one (R52, R70). -/
theorem test_decode_bytes : decodeBytes false [0x12, 0x34, 0x56] = (.instr (.jpAddr 0x234), [0x56]) := by decide
theorem test_decode_short : decodeBytes false [0x12] = (.unknown .truncated, [0x12]) := by decide
theorem test_table_word : decodeTableWord 16 0x8AB4 = some (.addReg 0xA 0xB) ∧ decodeTableWord 16 0x8AB8 = none := by
  decide

/-! ### One step -/

/-- After RESET under given parameters: code bytes at an address, pc there, registers set, and one STEP queued. -/
def start (c : Config) (at_ : Nat) (code : List Byte) (regs : List (RegIx × Byte)) (keys : KeySet := 0)
    (rnd : Byte := 0) : State :=
  let s := regs.foldl (fun s r => s.setReg r.1 r.2) ((State.resetWith c).storeBytes at_ code)
  { s with pc := BitVec.ofNat 16 at_, ops := [.step keys rnd] }

/-- The same, under the defaults and at 0x200. -/
def run (hi lo : Byte) (regs : List (RegIx × Byte)) : State := start Config.default 0x200 [hi, lo] regs

/-- The reset state under the second reading of FLAG_OPERAND_ORDER. -/
def seqConfig : Config := { Config.default with operandOrder := .seq }

/-- What a step leaves, seen through `f`. -/
def after {α : Type} (s : State) (f : State → α) : Option α :=
  match step s with
  | .next t => some (f t)
  | .fault _ => none
  | .refused _ => none

/-- Keys pressed. -/
def keySet (ks : List (Fin 16)) : KeySet := ks.foldl (fun m k => m ||| 1#16 <<< k.val) 0

/-! Classes 0 to 7 (C07, SRC-7). -/
theorem test_cls : after ({ run 0x00 0xE0 [] with disp := ((Display.blank Config.default).flip 5 5).flip 63 31 })
    (fun t => (t.disp == Display.blank Config.default, t.pc)) = some (true, 0x202) := by decide
theorem test_ret : after ({ run 0x00 0xEE [] with sp := 2, stack := ((Vector.replicate 16 0).set 0 0x206).set 1 0x304 })
    (fun t => (t.pc, t.sp, t.stack[1])) = some (0x304, 1, 0x304) := by decide
theorem test_ret_underflow : after (run 0x00 0xEE [])
    (fun t => (t.result, t.rs, t.pc)) = some (.fault 3 0x00EE 0x200 0, .halted, 0x200) := by decide
theorem test_sys : after (run 0x01 0x23 [])
    (fun t => (t.pc, t.result)) = some (0x202, .ok) := by decide
theorem test_jpAddr : after (run 0x11 0x00 [])
    (fun t => (t.pc, t.result)) = some (0x100, .ok) := by decide
theorem test_call : after (start Config.default 0xFFE [0x23, 0x00] [])
    (fun t => (t.pc, t.sp, t.stack[0])) = some (0x300, 1, 0x1000) := by decide
theorem test_call_overflow : after ({ run 0x23 0x00 [] with sp := 16 })
    (fun t => (t.sr, t.sp, t.rs)) = some (⟨2, 0x2300, 0x200, 0, false⟩, 16, .halted) := by decide
theorem test_seImm_equal : after (run 0x30 0x42 [(0, 0x42)])
    (fun t => t.pc) = some 0x204 := by decide
theorem test_seImm_differs : after (run 0x30 0x42 [(0, 0x43)])
    (fun t => t.pc) = some 0x202 := by decide
theorem test_sneImm_equal : after (run 0x4F 0x01 [(0xF, 0x01)])
    (fun t => t.pc) = some 0x202 := by decide
theorem test_sneImm_differs : after (run 0x4F 0x01 [])
    (fun t => t.pc) = some 0x204 := by decide
theorem test_seReg_equal : after (run 0x51 0x21 [(1, 0x09), (2, 0x09)])
    (fun t => t.pc) = some 0x204 := by decide
theorem test_seReg_strict : after (start { Config.default with strict59 := true } 0x200 [0x51, 0x21] [(1, 9), (2, 9)])
    (fun t => (t.pc, t.result, t.sr.unk)) = some (0x202, .unknown 0x5121 0x200, true) := by decide
theorem test_ldImm : after (run 0x6F 0x12 [])
    (fun t => (t.reg 0xF, t.pc)) = some (0x12, 0x202) := by decide
theorem test_addImm : after (run 0x7F 0xFF [(0xF, 0x01)])
    (fun t => (t.reg 0xF, t.pc)) = some (0x00, 0x202) := by decide
theorem test_addImm_no_flag : after (run 0x70 0x01 [(0, 0xFF)])
    (fun t => (t.reg 0, t.reg 0xF)) = some (0x00, 0x00) := by decide

/-! Class 8 (ALU, SRC-3). -/
theorem test_ldReg : after (run 0x80 0x10 [(0, 0x12), (1, 0x34), (0xF, 0x55)])
    (fun t => (t.reg 0, t.reg 0xF)) = some (0x34, 0x55) := by decide
theorem test_or : after (run 0x80 0x11 [(0, 0x12), (1, 0x34), (0xF, 0x55)])
    (fun t => (t.reg 0, t.reg 0xF)) = some (0x36, 0x55) := by decide
theorem test_and : after (run 0x80 0x12 [(0, 0x12), (1, 0x34), (0xF, 0x55)])
    (fun t => (t.reg 0, t.reg 0xF)) = some (0x10, 0x55) := by decide
theorem test_xor : after (run 0x80 0x13 [(0, 0x12), (1, 0x34), (0xF, 0x55)])
    (fun t => (t.reg 0, t.reg 0xF)) = some (0x26, 0x55) := by decide
theorem test_addReg : after (run 0x80 0x14 [(0, 0xFF), (1, 0x01)])
    (fun t => (t.reg 0, t.reg 0xF)) = some (0x00, 1) := by decide
theorem test_addReg_vf : after (run 0x8F 0x04 [(0xF, 0xF0), (0, 0x20)])
    (fun t => t.reg 0xF) = some 1 := by decide
theorem test_sub : after (run 0x80 0x15 [(0, 0x01), (1, 0x02)])
    (fun t => (t.reg 0, t.reg 0xF)) = some (0xFF, 0) := by decide
theorem test_sub_equal : after (run 0x80 0x15 [(0, 0x05), (1, 0x05)])
    (fun t => (t.reg 0, t.reg 0xF)) = some (0x00, 1) := by decide
theorem test_shr : after (run 0x80 0xF6 [(0, 0xFF)])
    (fun t => (t.reg 0, t.reg 0xF)) = some (0x7F, 1) := by decide
theorem test_shr_vf : after (run 0x8F 0x06 [(0xF, 0x05)])
    (fun t => t.reg 0xF) = some 0x02 := by decide
theorem test_subn_equal : after (run 0x80 0x17 [(0, 0x05), (1, 0x05)])
    (fun t => (t.reg 0, t.reg 0xF)) = some (0x00, 0) := by decide
theorem test_subn_seq : after (start seqConfig 0x200 [0x80, 0xF7] [(0, 0x10), (0xF, 0x30)])
    (fun t => (t.reg 0, t.reg 0xF)) = some (0xF1, 1) := by decide
theorem test_shl : after (run 0x80 0x0E [(0, 0x81)])
    (fun t => (t.reg 0, t.reg 0xF)) = some (0x02, 1) := by decide
theorem test_shl_seq : after (start seqConfig 0x200 [0x8F, 0x0E] [(0xF, 0xC1)])
    (fun t => t.reg 0xF) = some 0x02 := by decide

/-! Classes 9 to C (C9C). -/
theorem test_sneReg_differs : after (run 0x91 0x20 [(1, 0x01), (2, 0x02)])
    (fun t => t.pc) = some 0x204 := by decide
theorem test_sneReg_equal : after (run 0x91 0x20 [(1, 0x07), (2, 0x07)])
    (fun t => t.pc) = some 0x202 := by decide
theorem test_ldI : after ({ run 0xA1 0x23 [] with i := 0x0FFF })
    (fun t => t.i) = some 0x0123 := by decide
theorem test_jpV0 : after (run 0xBF 0xFF [(0, 0xFF)])
    (fun t => t.pc) = some 0x10FE := by decide
theorem test_jpV0_not_vx : after (run 0xB5 0xFF [(0, 0x03), (5, 0x40)])
    (fun t => t.pc) = some 0x602 := by decide
theorem test_rnd : after (start Config.default 0x200 [0xC3, 0x0F] [] 0 0xA5)
    (fun t => t.reg 3) = some 0x05 := by decide

/-! Class D (DRW). -/
/-- Some pixels, each with whether it is on. -/
def pixels (d : Display) (px : List (Nat × Nat)) : List Bool := px.map fun p => d.pixel p.1 p.2

theorem test_drw_wraps_and_collides : after ({ (run 0xD0 0x11 [(0, 63), (1, 31)]).writeByte 0x300 0xC0 with i := 0x300, disp := (Display.blank Config.default).flip 63 31 })
    (fun t => (pixels t.disp [(63, 31), (0, 31), (1, 31)], t.reg 0xF)) = some ([false, true, false], 1) := by decide
theorem test_drw_vf_coordinate : after ({ ((run 0xDF 0xE2 [(0xF, 5), (0xE, 2)]).writeByte 0x300 0x80).writeByte 0x301 0x80 with i := 0x300 })
    (fun t => (pixels t.disp [(5, 2), (5, 3), (5, 4), (0, 2)], t.reg 0xF)) = some ([true, true, false, false], 0) := by decide

/-! Class E and the key wait (KEY). -/
theorem test_skp : after (start Config.default 0x200 [0xE2, 0x9E] [(2, 5)] (keySet [5]))
    (fun t => t.pc) = some 0x204 := by decide
theorem test_skp_fault : after (start Config.default 0x200 [0xE2, 0x9E] [(2, 0x10)] (keySet [0]))
    (fun t => t.result) = some (.fault 5 0xE29E 0x200 0) := by decide
theorem test_sknp : after (run 0xE2 0xA1 [(2, 0x05)])
    (fun t => t.pc) = some 0x204 := by decide
theorem test_sknp_low_nibble : after (start { Config.default with keyIndexPolicy := .lowNibble } 0x200 [0xE2, 0xA1] [(2, 0x10)] (keySet [0]))
    (fun t => t.pc) = some 0x202 := by decide
theorem test_ldVxK : after (start Config.default 0x220 [0xF3, 0x0A] [] (keySet [5]))
    (fun t => (t.rs, t.kl, t.pc, t.result)) = some (.awaitingKey 3, 0x20, 0x220, .ok) := by decide
theorem test_poll_lowest : after ({ start Config.default 0x220 [0xF3, 0x0A] [] (keySet [9, 3, 12]) with rs := .awaitingKey 3 })
    (fun t => (t.reg 3, t.pc, t.rs)) = some (3, 0x222, .running) := by decide
theorem test_poll_held : after ({ start Config.default 0x220 [0xF3, 0x0A] [] (keySet [5]) with rs := .awaitingKey 3, kl := 0x20 })
    (fun t => (t.result, t.pc, t.kl)) = some (.waiting, 0x220, 0x20) := by decide
theorem test_poll_level : after ({ start { Config.default with keyWaitMode := .level } 0x220 [] [] (keySet [5]) with rs := .awaitingKey 3, kl := 0x20 })
    (fun t => (t.reg 3, t.pc)) = some (5, 0x222) := by decide

/-! Class F (MSC). -/
theorem test_ldVxDt : after ({ run 0xF5 0x07 [] with dt := 0x3C })
    (fun t => t.reg 5) = some 0x3C := by decide
theorem test_ldDtVx : after (run 0xF0 0x15 [(0, 0x05)])
    (fun t => (t.dt, t.delayActive)) = some (5, true) := by decide
theorem test_ldStVx : after (run 0xF1 0x18 [(1, 0x02)])
    (fun t => (t.st, t.soundActive)) = some (2, true) := by decide
theorem test_addIVx : after ({ run 0xF0 0x1E [(0, 1)] with i := 0xFFFF })
    (fun t => (t.i, t.reg 0xF)) = some (0x0000, 0) := by decide
theorem test_ldFVx : after (run 0xF0 0x29 [(0, 0x0A)])
    (fun t => t.i) = some 0x0082 := by decide
theorem test_ldFVx_fault : after (run 0xF0 0x29 [(0, 0x10)])
    (fun t => t.result) = some (.fault 5 0xF029 0x200 0) := by decide
theorem test_ldBVx : after ({ run 0xF0 0x33 [(0, 0xFE)] with i := 0x300 })
    (fun t => (t.readBytes 0x300 3, t.i)) = some ([2, 5, 4], 0x300) := by decide
theorem test_ldBVx_fault : after ({ run 0xF0 0x33 [] with i := 0x01FF })
    (fun t => (t.result, t.mem == (run 0xF0 0x33 []).mem)) = some (.fault 4 0xF033 0x200 0x1FF, true) := by decide
theorem test_ldMemVx : after ({ run 0xF2 0x55 [(0, 1), (1, 2), (2, 3), (3, 4)] with i := 0x400 })
    (fun t => (t.readBytes 0x400 4, t.i)) = some ([1, 2, 3, 0], 0x400) := by decide
theorem test_ldMemVx_fault : after ({ start Config.default 0x300 [0xF3, 0x55] [(0, 1)] with i := 0x1FE })
    (fun t => (t.result, t.readByte 0x200)) = some (.fault 4 0xF355 0x300 0x1FE, 0) := by decide
theorem test_ldVxMem : after ({ run 0xF2 0x65 [(3, 7)] with i := 0x050 })
    (fun t => (t.reg 0, t.reg 1, t.reg 2, t.reg 3)) = some (0xF0, 0x90, 0x90, 7) := by decide
theorem test_ldVxMem_fault : after ({ run 0xF0 0x65 [] with i := 0x1234 })
    (fun t => t.result) = some (.fault 4 0xF065 0x200 0x1234) := by decide

/-! Fetch, failures, timers, RESET and LOAD (MEM, EXC, TMR, RST). -/
theorem test_fetch_beyond : after (start Config.default 0x1000 [] [])
    (fun t => t.result) = some (.fault 4 0x0000 0x1000 0x1000) := by decide
theorem test_fetch_odd_allowed : after (start { Config.default with allowOddPc := true } 0x201 [0x60, 0x07] [])
    (fun t => (t.reg 0, t.pc)) = some (7, 0x203) := by decide
theorem test_unknown : after (run 0x80 0x08 [(0, 0x12)])
    (fun t => (t.result, t.sr.unk, t.pc, t.rs)) = some (.unknown 0x8008 0x200, true, 0x202, .running) := by decide
theorem test_halted_step : after ({ run 0x60 0x01 [] with rs := .halted })
    (fun t => (t.result, t.pc, t.reg 0)) = some (.isHalted, 0x200, 0) := by decide
theorem test_tick : after ({ State.reset with dt := 1, st := 3, ops := [.tick] })
    (fun t => (t.dt, t.st)) = some (0, 2) := by decide
theorem test_reset_clears : after ({ run 0x60 0x01 [(4, 9)] with ops := [.reset], rs := .halted })
    (fun t => (t.reg 4, t.rs, t.readBytes 0x200 2)) = some (0, .running, [0, 0]) := by decide
theorem test_load : after ({ State.reset with ops := [.load [0x60, 0x05]] })
    (fun t => (t.readBytes 0x200 3, t.result)) = some ([0x60, 0x05, 0], .ok) := by decide
/-- RST-2: the default font at 0x050, and 0 beside it. -/
theorem test_reset_font : (State.reset.readBytes 0x04F 6, State.reset.readBytes 0x09B 6) =
    ([0x00, 0xF0, 0x90, 0x90, 0x90, 0xF0], [0xF0, 0x80, 0xF0, 0x80, 0x80, 0x00]) := by decide
theorem test_reset_memory_wf : Memory.wf State.reset.cfg State.reset.mem := by decide
/-- A byte written back to what an unlisted address reads as leaves no cell. -/
theorem test_memory_canonical : ((State.reset.writeByte 0x300 7).writeByte 0x300 0).mem = State.reset.mem := by decide
theorem test_withFetchWord : after (State.reset.withFetchWord 16 0x6005) (fun t => (t.reg 0, t.pc)) = some (5, 0x202) := by
  decide


/-! ### Witnesses: a state and operands that meet all the hypotheses of a statement, for each of its clauses -/

theorem witness_DecodeOfEncodeIsIdentity : (Instr.sys 0x0E1).wf = true ∧ (Instr.drw 0xF 0xF 0xF).wf = true := by decide

theorem witness_EveryPatternDecodesToItsInstruction : (0x0E1#12).toNat ∉ [0x0E0, 0x0EE] ∧ (false = false ∨ (1 : Fin 16) = 0) ∧
    (true = false ∨ (0 : Fin 16) = 0) := by decide

theorem witness_DecodedWordsEncodeBack : decode false 0x5121#16 = .instr (.seReg 1 2) ∧
    decode true 0x00E1#16 = .instr (.sys 0x0E1) := by decide

/-- A STEP from the head of the queue. -/
theorem takes_queued {s : State} {keys : KeySet} {rnd : Byte} {rest : List HostOp} (h : s.ops = .step keys rnd :: rest) :
    TakesStep s { s with ops := rest, keys := keys, rnd := rnd, loadable := false } :=
  .inl ⟨keys, rnd, rest, h, rfl⟩

/-- A STEP of an empty queue. -/
theorem takes_free {s : State} (h : s.ops = []) :
    TakesStep s { s with draws := s.draws + 1, keys := 0, rnd := Config.freeRandom s.draws, loadable := false } :=
  .inr ⟨h, rfl⟩

theorem witness_StepRunsTheDecodedInstruction :
    (∃ s', State.reset.cfg.wf = true ∧ TakesStep State.reset s' ∧ State.reset.rs = .running ∧
      fetchOk State.reset.cfg State.reset.pc = true ∧
      decode State.reset.cfg.strict59 State.reset.fetchWord = .instr (.sys 0)) ∧
    ∃ s', let s := start Config.default 0xFFE [0x6A, 0x01] []
      s.cfg.wf = true ∧ TakesStep s s' ∧ s.rs = .running ∧ fetchOk s.cfg s.pc = true ∧
        decode s.cfg.strict59 s.fetchWord = .instr (.ldImm 0xA 1) :=
  ⟨⟨_, by decide, takes_free rfl, rfl, by decide, by decide⟩, ⟨_, by decide, takes_queued rfl, rfl, by decide, by decide⟩⟩

/-- The pcs at the edges of the fetch check, each of which fails. -/
theorem witness_BadFetchHalts_fails : ∀ pc ∈ [0x0, 0x1FE, 0x201, 0xFFF, 0x1000, 0xFFFF],
    let s := start Config.default pc [] []
    s.cfg.wf = true ∧ (∃ s', TakesStep s s') ∧ s.rs = .running ∧
      ¬ (0x200 ≤ s.pc.toNat ∧ s.pc.toNat ≤ 0xFFE ∧ (s.pc.toNat % 2 = 0 ∨ s.cfg.allowOddPc = true)) := by
  intro pc h s
  refine ⟨rfl, ⟨_, takes_queued rfl⟩, rfl, ?_⟩
  revert pc; decide

/-- The pcs at the edges of the fetch check, each of which passes. -/
theorem witness_BadFetchHalts_passes :
    (0x200 ≤ (0x200#16).toNat ∧ (0x200#16).toNat % 2 = 0) ∧ ((0xFFE#16).toNat ≤ 0xFFE ∧ (0xFFE#16).toNat % 2 = 0) ∧
      (0x200 ≤ (0xFFD#16).toNat ∧ (0xFFD#16).toNat ≤ 0xFFE ∧
        { Config.default with allowOddPc := true }.allowOddPc = true) := by decide

theorem witness_UnknownOpcodeIsSkippedAndRecorded : ∃ s', let s := run 0x80 0x08 []
    s.cfg.wf = true ∧ TakesStep s s' ∧ s.rs = .running ∧ fetchOk s.cfg s.pc = true ∧
      decode s.cfg.strict59 s.fetchWord = .unknown (.aluSubOp 8) :=
  ⟨_, by decide, takes_queued rfl, rfl, by decide, by decide⟩

/-- A halted machine with a STEP, a TICK or a RESET next, the last of which leaves HALTED. -/
theorem witness_HaltedLeavesOnlyByReset :
    let s : State := { State.reset with rs := .halted }
    s.cfg.wf = true ∧ s.rs = .halted ∧ (∃ s', TakesStep s s') ∧
      { s with ops := [.tick] }.ops = [.tick] ∧ { s with ops := [.reset] }.ops = [.reset] ∧
      ∃ t, step { s with ops := [.reset] } = .next t ∧ t.rs ≠ .halted :=
  ⟨by decide, rfl, ⟨_, takes_free rfl⟩, rfl, rfl, _, rfl, by decide⟩

/-- A poll that key 3 ends, with keys 9 and 12 pressed too, and a poll that no key ends. -/
theorem witness_PollTakesTheLowestQualifyingKey :
    (∃ s', let s : State := { start Config.default 0x220 [] [] (keySet [9, 3, 12]) with rs := .awaitingKey 3 }
      s.cfg.wf = true ∧ TakesStep s s' ∧ s.rs = .awaitingKey 3 ∧ Qualifies s.cfg.keyWaitMode s.kl s'.keys 3 ∧
        ∀ j, Qualifies s.cfg.keyWaitMode s.kl s'.keys j → 3 ≤ j) ∧
    ∃ s', let s : State := { start Config.default 0x220 [] [] (keySet [5]) with rs := .awaitingKey 3, kl := keySet [5] }
      s.cfg.wf = true ∧ TakesStep s s' ∧ s.rs = .awaitingKey 3 ∧
        ∀ k : Fin 16, ¬ Qualifies s.cfg.keyWaitMode s.kl s'.keys k := by
  refine ⟨⟨_, by decide, takes_queued rfl, rfl, ?_, ?_⟩, ⟨_, by decide, takes_queued rfl, rfl, ?_⟩⟩ <;>
    simp only [Qualifies] <;> decide

/-- Key 5 held since the Fx0A, then released: two polls of an EDGE wait. -/
theorem witness_HeldKeysNeverEndAnEdgeWait :
    let s : State := { State.reset with rs := .awaitingKey 3, kl := keySet [5], ops := [.step (keySet [5]) 0, .step 0 0] }
    s.cfg.wf = true ∧ s.cfg.keyWaitMode = .edge ∧ s.rs = .awaitingKey 3 ∧ NoNewPress s.kl [keySet [5], 0] ∧
      s.ops = ([keySet [5], 0].map fun keys => HostOp.step keys 0) ++ [] :=
  ⟨by decide, rfl, rfl, ⟨fun _ h => h, ⟨fun k h => by simp at h, trivial⟩⟩, rfl⟩

/-- The longest image that fits, the shortest that does not, and a late LOAD. -/
theorem witness_LoadPlacesTheImage :
    (let s : State := { State.reset with ops := [.load (List.replicate 0xE00 1)] };
      s.cfg.wf = true ∧ s.ops = [.load (List.replicate 0xE00 1)] ∧ s.loadable = true ∧
        (List.replicate 0xE00 (1 : Byte)).length ≤ 0xE00 ∧ Memory.wf s.cfg s.mem) ∧
    (let s : State := { State.reset with ops := [.load (List.replicate 0xE01 1)] };
      s.cfg.wf = true ∧ s.ops = [.load (List.replicate 0xE01 1)] ∧ s.loadable = true ∧
        0xE00 < (List.replicate 0xE01 (1 : Byte)).length) ∧
    (let s : State := { State.reset with ops := [.load []], loadable := false };
      s.cfg.wf = true ∧ s.ops = [.load []] ∧ s.loadable = false) :=
  ⟨⟨by decide, rfl, rfl, by simp, by decide⟩, ⟨by decide, rfl, rfl, by simp⟩, by decide, rfl, rfl⟩

/-- A step that runs each of the four operations. -/
theorem witness_LoadIsAllowedUntilTheFirstStep :
    (∃ t, step { State.reset with ops := [.reset] } = .next t) ∧ (∃ t, step { State.reset with ops := [.tick] } = .next t) ∧
      (∃ t, step { State.reset with ops := [.load [1]] } = .next t) ∧
      ∃ s' t, TakesStep State.reset s' ∧ step State.reset = .next t :=
  ⟨⟨_, rfl⟩, ⟨_, rfl⟩, ⟨_, rfl⟩, _, _, takes_free rfl, rfl⟩

theorem witness_ResetGivesTheResetValues :
    let s : State := { run 0x60 0x01 [(4, 9)] with ops := [.reset], rs := .halted }
    s.cfg.wf = true ∧ s.ops = [.reset] := ⟨by decide, rfl⟩

/-- Timers at both edges, in a wait; and a halted machine. -/
theorem witness_TickDecrementsBothTimers :
    (let s : State := { State.reset with dt := 0, st := 0xFF, rs := .awaitingKey 0, ops := [.tick] };
      s.cfg.wf = true ∧ s.rs ≠ .halted ∧ s.ops = [.tick]) ∧
    (let s : State := { State.reset with dt := 4, st := 4, rs := .halted, ops := [.tick] };
      s.cfg.wf = true ∧ s.rs = .halted ∧ s.ops = [.tick]) :=
  ⟨⟨by decide, by decide, rfl⟩, by decide, rfl, rfl⟩

theorem witness_TimersReachZeroAndStay :
    let s : State := { State.reset with dt := 5, ops := List.replicate 6 .tick }
    s.cfg.wf = true ∧ s.rs ≠ .halted ∧ s.ops = List.replicate 6 .tick ++ [] := ⟨by decide, by decide, by simp⟩

/-- A step that raises DT, and one that raises ST. -/
theorem witness_OnlyTimerLoadsRaiseATimer :
    (∃ t, step (run 0xF0 0x15 [(0, 5)]) = .next t ∧ (run 0xF0 0x15 [(0, 5)]).dt.toNat < t.dt.toNat) ∧
      ∃ t, step (run 0xF1 0x18 [(1, 2)]) = .next t ∧ (run 0xF1 0x18 [(1, 2)]).st.toNat < t.st.toNat :=
  ⟨⟨_, rfl, by decide⟩, ⟨_, rfl, by decide⟩⟩

theorem witness_BadConfigurationIsRefused :
    (State.resetWith { Config.default with displayW := 0 }).cfg.displayW = 0 ∧
      (State.resetWith { Config.default with displayH := 0 }).cfg.displayH = 0 ∧
      0x200 < (State.resetWith { Config.default with fontBase := 0x1B1 }).cfg.fontBase + 80 := by decide

/-- A state that meets the invariant, and a step of it. -/
theorem witness_StepKeepsTheInvariant : Inv (run 0x60 0x05 []) ∧ ∃ t, step (run 0x60 0x05 []) = .next t :=
  ⟨⟨by decide, by decide, by decide, by decide, by decide, nofun, nofun, fun _ => rfl⟩, _, rfl⟩

/-- A failed fetch, and a RET with nothing pushed. -/
theorem witness_FatalFailuresArePrecise :
    (∃ s' t, let s := start Config.default 0x1000 [] []
      s.cfg.wf = true ∧ TakesStep s s' ∧ s.rs = .running ∧ step s = .next t ∧ t.rs = .halted) ∧
    ∃ s' t, let s := run 0x00 0xEE []
      s.cfg.wf = true ∧ TakesStep s s' ∧ s.rs = .running ∧ step s = .next t ∧ t.rs = .halted :=
  ⟨⟨_, _, by decide, takes_queued rfl, rfl, rfl, by decide⟩, ⟨_, _, by decide, takes_queued rfl, rfl, rfl, by decide⟩⟩

/-- For RegistersChangeOnlyWhereWritten and PartsChangeOnlyWhereWritten: an instruction that ends, and one that fails. -/
theorem witness_ChangeOnlyWhereWritten :
    (∃ t, exec (.addReg 0 1) State.reset = .next t) ∧ ∃ t, exec .ret State.reset = .next t := ⟨⟨_, rfl⟩, ⟨_, rfl⟩⟩

theorem witness_ParametersNeverChange : ∃ t, step State.reset = .next t := ⟨_, rfl⟩

/-- For RetPopsTheReturnAddress and CallPushesTheReturnAddress, the stack's edges: one address and 16 to pop, none to pop; room for one push, and none. -/
theorem witness_stack :
    (0 < ({ State.reset with sp := 1 } : State).sp.val ∧ 0 < ({ State.reset with sp := 16 } : State).sp.val) ∧
      State.reset.sp.val = 0 ∧ ({ State.reset with sp := 15 } : State).sp.val < 16 ∧
      ({ State.reset with sp := 16 } : State).sp.val = 16 := by decide

theorem witness_RetAfterCallReturns : ∃ t, State.reset.sp.val < 16 ∧ exec (.call 0x210) State.reset = .next t ∧
    t.sp = t.sp ∧ t.stack = t.stack := ⟨_, by decide, rfl, rfl, rfl⟩

/-- For ImmediateSkips and RegisterSkips, registers on both sides of each skip, one register twice among them. -/
theorem witness_skips : State.reset.reg 0 = 0x00 ∧ State.reset.reg 0 ≠ 0x42 ∧ State.reset.reg 1 = State.reset.reg 2 ∧
    (run 0 0 [(1, 7)]).reg 1 ≠ (run 0 0 [(1, 7)]).reg 2 := by decide

/-- For AddSetsTheCarry to ShlShiftsOutTheHighBit, VF and another register as the destination, and as the source, under both orders of R130. -/
theorem witness_flag_orders : (0 : RegIx) ≠ vf ∧ (0xF : RegIx) = vf ∧ State.reset.cfg.operandOrder = .pre ∧
    (State.resetWith seqConfig).cfg.operandOrder = .seq := by decide

/-- A sprite in the reserved region that hits a pixel that is on. -/
theorem witness_DrawInvertsThePixelsItHits_collides :
    let s : State := { State.reset with i := 0x050, disp := (Display.blank Config.default).flip 0 0 }
    s.cfg.wf = true ∧ Display.wf s.cfg s.disp ∧ Readable s 1 ∧
      ∃ col < s.cfg.displayW, ∃ row < s.cfg.displayH, 0 < spriteHits s 0 1 1 col row ∧ s.disp.pixel col row = true :=
  ⟨by decide, by decide, by decide, 0, by decide, 0, by decide, by decide, by decide⟩

/-- A sprite at the last byte of memory, which has no set bit and hits nothing. -/
theorem witness_DrawInvertsThePixelsItHits_clear :
    let s : State := { State.reset with i := 0xFFF }
    s.cfg.wf = true ∧ Display.wf s.cfg s.disp ∧ Readable s 1 ∧
      ¬ ∃ col < s.cfg.displayW, ∃ row < s.cfg.displayH, 0 < spriteHits s 0 1 1 col row ∧
        (s.disp.pixel col row = true ∨ 1 < spriteHits s 0 1 1 col row) := by
  refine ⟨by decide, by decide, by decide, ?_⟩
  rintro ⟨col, -, row, -, h, -⟩
  have clear : ∀ j < 8, spriteBit { State.reset with i := 0xFFF } 0 j = false := by decide
  simp only [spriteHits, List.range_one, List.map_cons, List.map_nil, List.sum_cons, List.sum_nil, Nat.add_zero] at h
  obtain ⟨j, hj, hb⟩ := List.countP_pos_iff.mp h
  simp only [Bool.and_eq_true] at hb
  exact Bool.false_ne_true ((clear j (List.mem_range.mp hj)).symm.trans hb.1.1)

/-- A row beyond memory, its address the lowest that fails; and no row at all. -/
theorem witness_DrawChecksItsRows :
    LowestFailing (· < 0x1000) { State.reset with i := 0xFFE } (3 : Fin 16).val 0x1000 ∧ (0 : Fin 16) = 0 :=
  ⟨⟨2, by decide, by decide, by decide, by decide⟩, rfl⟩

/-- The same sprite twice, on a clear display: the second DRAW runs from the first one's state. -/
theorem witness_DrawTwiceRestoresTheDisplay :
    let s : State := { State.reset with i := 0x050 }
    ∃ t u, Readable s (5 : Fin 16).val ∧ Readable t (5 : Fin 16).val ∧ exec (.drw 0 1 5) s = .next t ∧ t.cfg = s.cfg ∧
      t.disp = t.disp ∧ (t.reg 0).toNat % s.cfg.displayW = (s.reg 0).toNat % s.cfg.displayW ∧
      (t.reg 1).toNat % s.cfg.displayH = (s.reg 1).toNat % s.cfg.displayH ∧
      (∀ i < 5, t.readByte (t.i.toNat + i) = s.readByte (s.i.toNat + i)) ∧ exec (.drw 0 1 5) t = .next u ∧
      Display.wf s.cfg s.disp ∧ 8 ≤ s.cfg.displayW ∧ (5 : Fin 16).val ≤ s.cfg.displayH ∧ s.cfg.wf = true :=
  ⟨_, _, by decide, by decide, rfl, rfl, rfl, by decide, by decide, by decide, rfl, by decide, by decide, by decide,
    by decide⟩

/-- For KeySkipsReadTheSnapshot and FontPointsAtTheGlyph: the values at the edge of 0xF, under both policies. -/
theorem witness_names : Names Config.default.keyIndexPolicy 0x0F 15 ∧ Names .lowNibble 0x10 0 ∧
    Names Config.default.fontDigitPolicy 0x0F 15 ∧ Names .lowNibble 0xFF 15 ∧
    0xF < ((run 0 0 [(2, 0x10)]).reg 2).toNat ∧ (run 0 0 [(2, 0x10)]).cfg.keyIndexPolicy = .fault ∧
    (run 0 0 [(2, 0x10)]).cfg.fontDigitPolicy = .fault ∧ (run 0 0 [(2, 0x10)]).cfg.wf = true := by
  simp only [Names]; decide

/-- BCD at the last three bytes of memory and at the first of the program region; one address too high; one too low,
with 0x200 passing after it. -/
theorem witness_BcdStoresTheDigits :
    Memory.wf State.reset.cfg State.reset.mem ∧ Storable { State.reset with i := 0xFFD } 3 ∧
      Storable { State.reset with i := 0x200 } 3 ∧
      LowestFailing (fun a => a < 0x1000 ∧ (State.reset.cfg.protectReserved = true → 0x200 ≤ a))
        { State.reset with i := 0xFFE } 3 0x1000 ∧
      LowestFailing (fun a => a < 0x1000 ∧ (State.reset.cfg.protectReserved = true → 0x200 ≤ a))
        { State.reset with i := 0x1FF } 3 0x1FF :=
  ⟨by decide, by decide, by decide, ⟨2, by decide, by decide, by decide, by decide⟩,
    ⟨0, by decide, by decide, by decide, by decide⟩⟩

/-- STORE of all 16 registers at the end of memory, below 0x200 without PROTECT_RESERVED, and one address too high. -/
theorem witness_BlockStoreWritesV0ToVx :
    Memory.wf State.reset.cfg State.reset.mem ∧ Storable { State.reset with i := 0xFF0 } ((0xF : RegIx).val + 1) ∧
      Storable { State.resetWith { Config.default with protectReserved := false } with i := 0x1FE }
        ((0xF : RegIx).val + 1) ∧
      LowestFailing (fun a => a < 0x1000 ∧ (State.reset.cfg.protectReserved = true → 0x200 ≤ a))
        { State.reset with i := 0xFF1 } ((0xF : RegIx).val + 1) 0x1000 :=
  ⟨by decide, by decide, by decide, ⟨15, by decide, by decide, by decide, by decide⟩⟩

theorem witness_BlockLoadReadsV0ToVx :
    Readable { State.reset with i := 0xFF0 } ((0xF : RegIx).val + 1) ∧
      LowestFailing (· < 0x1000) { State.reset with i := 0xFFFF } ((0xF : RegIx).val + 1) 0xFFFF :=
  ⟨by decide, ⟨0, by decide, by decide, by decide, by decide⟩⟩

/-- For LoadAfterStoreGivesTheRegistersBack and StoredCodeIsFetched: a store of two registers at 0x20A, the load of them, and a fetch from there (P7). -/
theorem witness_store_then_load_or_fetch :
    let s : State := { run 0 0 [(0, 0x12), (1, 0x0A)] with i := 0x20A }
    ∃ t r, Memory.wf s.cfg s.mem ∧ Storable s ((1 : RegIx).val + 1) ∧ exec (.ldMemVx 1) s = .next t ∧ t.i = s.i ∧
      exec (.ldVxMem 1) t = .next r ∧ (1 : RegIx).val = (0 : RegIx).val + 1 ∧ (1 : RegIx) ≤ 1 ∧
      ({ t with pc := 0x20A } : State).mem = t.mem ∧ ({ t with pc := 0x20A } : State).cfg = t.cfg ∧
      ({ t with pc := 0x20A } : State).pc.toNat = s.i.toNat + (0 : RegIx).val :=
  ⟨_, _, by decide, by decide, rfl, by decide, rfl, by decide, by decide, rfl, rfl, by decide⟩

end Sys2Proof.Tests
end

section
/-! PROOFS. What each named update of the state keeps: the frame rules from which an instruction's frame is composed
(92_eei_decisions D31). -/

namespace Sys2Proof.Machine

open Sys2Proof.Claims

variable {s e t : State} {ps qs : List Part}

/-- A frame may list more parts than were written. -/
theorem KeepsAllBut.mono (h : KeepsAllBut ps s t) (hsub : ps ⊆ qs) : KeepsAllBut qs s t :=
  fun p hp => h p fun hm => hp (hsub hm)

theorem KeepsAllBut.refl (ps : List Part) (s : State) : KeepsAllBut ps s s := by
  intro p _
  cases p <;> simp [Part.same]

theorem KeepsAllBut.trans (h : KeepsAllBut ps s e) (h' : KeepsAllBut ps e t) : KeepsAllBut ps s t := by
  intro p hp
  have hse := h p hp
  have het := h' p hp
  cases p <;> simp_all [Part.same]

/-- The pc commit adds pc and the outcome to the parts written. -/
theorem KeepsAllBut.jump (h : KeepsAllBut ps s e) (p : Word) :
    KeepsAllBut (.pc :: .result :: ps) s (e.jump p) := by
  intro q hq
  simp only [List.mem_cons, not_or] at hq
  obtain ⟨hpc, hresult, hps⟩ := hq
  have hsame := h q hps
  cases q <;> simp_all [Part.same, State.readByte]

/-- Where the register file is outside the parts written, no register is written. -/
theorem KeepsAllBut.keepsRegsBut (h : KeepsAllBut ps s t) (hp : .regs ∉ ps) (ks : List RegIx) :
    KeepsRegsBut ks s t :=
  fun k _ => h .regs hp k

theorem State.setReg_keeps (s : State) (k : RegIx) (b : Byte) : KeepsAllBut [.regs] s (s.setReg k b) := by
  intro p hp
  cases p <;> simp_all [Part.same]

theorem State.setRegs_keeps (s : State) (v : Vector Byte 16) : KeepsAllBut [.regs] s (s.setRegs v) := by
  intro p hp
  cases p <;> simp_all [Part.same]

theorem State.setI_keeps (s : State) (w : Word) : KeepsAllBut [.i] s (s.setI w) := by
  intro p hp
  cases p <;> simp_all [Part.same]

theorem State.setDt_keeps (s : State) (b : Byte) : KeepsAllBut [.dt] s (s.setDt b) := by
  intro p hp
  cases p <;> simp_all [Part.same]

theorem State.setSt_keeps (s : State) (b : Byte) : KeepsAllBut [.st] s (s.setSt b) := by
  intro p hp
  cases p <;> simp_all [Part.same]

theorem State.setDisp_keeps (s : State) (d : Display) : KeepsAllBut [.disp] s (s.setDisp d) := by
  intro p hp
  cases p <;> simp_all [Part.same]

theorem State.storeBytes_keeps (s : State) (a : Nat) (bs : List Byte) :
    KeepsAllBut [.mem] s (s.storeBytes a bs) := by
  intro p hp
  cases p <;> simp_all [Part.same]

theorem State.beginWait_rememberKeys_keeps (s : State) (r : RegIx) :
    KeepsAllBut [.kl, .rs] s (s.rememberKeys.beginWait r) := by
  intro p hp
  cases p <;> simp_all [Part.same]

theorem State.resultThenFlag_keeps (s : State) (x : RegIx) (value flag : Byte) :
    KeepsAllBut [.regs] s (s.resultThenFlag x value flag) :=
  (s.setReg_keeps x value).trans (State.setReg_keeps _ vf flag)

theorem State.flagThenResult_keeps (s : State) (x : RegIx) (flag : Byte) (value : State → Byte) :
    KeepsAllBut [.regs] s (s.flagThenResult x flag value) :=
  (s.setReg_keeps vf flag).trans (State.setReg_keeps _ x _)

theorem State.setDisp_setReg_keeps (s : State) (d : Display) (k : RegIx) (b : Byte) :
    KeepsAllBut [.regs, .disp] s ((s.setDisp d).setReg k b) :=
  ((s.setDisp_keeps d).mono (by simp)).trans ((State.setReg_keeps _ k b).mono (by simp))

/-- CALL's push writes the stack and SP. -/
theorem State.push_keeps {w : Word} (h : s.push w = some t) : KeepsAllBut [.sp, .stack] s t := by
  obtain ⟨_, e⟩ | ⟨-, e⟩ := s.push_cases w <;> rw [e] at h <;> cases h
  intro p hp
  cases p <;> simp_all [Part.same, State.reg, State.readByte]

/-- RET's pop writes SP. -/
theorem State.pop_keeps {w : Word} (h : s.pop = some (w, t)) : KeepsAllBut [.sp] s t := by
  obtain ⟨_, e⟩ | ⟨-, e⟩ := s.pop_cases <;> rw [e] at h <;> cases h
  intro p hp
  cases p <;> simp_all [Part.same, State.reg, State.readByte]

theorem State.raise_keeps (s : State) (f : FailureCode) (w a : Word) :
    KeepsAllBut [.rs, .sr, .result] s (s.raise f w a) := by
  obtain ⟨-, -, -, h⟩ := s.raise_haltsWith f w a
  exact h

/-! ### The registers written -/

theorem State.setReg_keepsRegs (s : State) (k : RegIx) (b : Byte) : KeepsRegsBut [k] s (s.setReg k b) :=
  fun j hj => s.reg_setReg_of_ne (by simpa [eq_comm] using hj) b

theorem State.resultThenFlag_keepsRegs (s : State) (x : RegIx) (value flag : Byte) :
    KeepsRegsBut [x, vf] s (s.resultThenFlag x value flag) := by
  intro k hk
  simp only [List.mem_cons, List.not_mem_nil, or_false, not_or] at hk
  simp [State.reg_resultThenFlag, hk]

theorem State.flagThenResult_keepsRegs (s : State) (x : RegIx) (flag : Byte) (value : State → Byte) :
    KeepsRegsBut [x, vf] s (s.flagThenResult x flag value) := by
  intro k hk
  simp only [List.mem_cons, List.not_mem_nil, or_false, not_or] at hk
  simp [State.reg_flagThenResult, hk]

/-- A block loaded from V0 up to V[x] writes no higher register (45_misc R189). -/
theorem State.setRegs_writeRegs_keepsRegs (s : State) (x : RegIx) {bs : List Byte} (hb : bs.length = x.val + 1) :
    KeepsRegsBut (writtenRegs (.ldVxMem x)) s (s.setRegs (writeRegs s.v 0 bs)) := by
  intro k hk
  have hlt : x.val < k.val := by simpa [writtenRegs] using hk
  simp only [State.reg, State.setRegs_v, writeRegs_getElem]
  rw [dif_neg (by omega)]

end Sys2Proof.Machine
end

section
/-! PROOFS. The invariant under each named update of the state. -/

namespace Sys2Proof.Machine

variable {s t : State}

/-- The fields the invariant speaks of. -/
def State.invFields (s : State) : Config × Memory × Display × Word × Vector Word 16 × RunState × StatusRecord :=
  (s.cfg, s.mem, s.disp, s.pc, s.stack, s.rs, s.sr)

/-- The invariant depends on those fields only. -/
theorem Inv.congr (h : Inv s) (e : t.invFields = s.invFields := by rfl) : Inv t := by
  simp only [State.invFields, Prod.mk.injEq] at e
  obtain ⟨hcfg, hmem, hdisp, hpc, hstack, hrs, hsr⟩ := e
  obtain ⟨cfg, mem, disp, pc, stack, waiting, halted, clear⟩ := h
  constructor <;> simpa only [hcfg, hmem, hdisp, hpc, hstack, hrs, hsr]

/-- A fatal failure keeps the invariant: SR takes a fatal code and the machine is HALTED (60_exceptions R204). -/
theorem Inv.raise (h : Inv s) {f : FailureCode} (hf : f.number ∈ [2, 3, 4, 5]) (w a : Word) :
    Inv (s.raise f w a) :=
  ⟨h.cfg, h.mem, h.disp, h.pc, h.stack, nofun, fun _ => hf, fun hne => absurd rfl hne⟩

/-- A fetchable pc is at most 0xFFE. -/
theorem fetchOk_le {c : Config} {pc : Word} (h : fetchOk c pc = true) : pc.toNat ≤ 0xFFE := by
  simp only [fetchOk, Bool.and_eq_true, decide_eq_true_eq] at h
  exact h.1.2

/-- A good machine, RUNNING on a fetchable pc: what holds where an instruction runs (30_encoding R73, R74). -/
structure Fetched (s : State) : Prop where
  inv : Inv s
  running : s.rs = .running
  fetch : fetchOk s.cfg s.pc = true

theorem Fetched.congr (h : Fetched s) (e : t.invFields = s.invFields := by rfl) : Fetched t := by
  have hinv := h.inv.congr e
  simp only [State.invFields, Prod.mk.injEq] at e
  obtain ⟨hcfg, -, -, hpc, -, hrs, -⟩ := e
  exact ⟨hinv, hrs ▸ h.running, hcfg ▸ hpc ▸ h.fetch⟩

/-- The machine goes on at any pc within the bound of 10_state R26. -/
theorem Fetched.jump (h : Fetched s) {p : Word} (hp : p.toNat ≤ 0x10FE) : Inv (s.jump p) where
  cfg := h.inv.cfg
  mem := h.inv.mem
  disp := h.inv.disp
  pc := hp
  stack := h.inv.stack
  waiting r hr := by simp [h.running] at hr
  halted hr := by simp [h.running] at hr
  clear := h.inv.clear

theorem Fetched.advance (h : Fetched s) : Inv s.advance := by
  have := fetchOk_le h.fetch
  exact h.jump (by bv_omega)

theorem Fetched.skipIf (h : Fetched s) (c : Bool) : Inv (s.skipIf c) := by
  have := fetchOk_le h.fetch
  exact h.jump (by split <;> bv_omega)

theorem Fetched.setDisp (h : Fetched s) {d : Display} (hd : Display.wf s.cfg d) : Fetched (s.setDisp d) :=
  ⟨⟨h.inv.cfg, h.inv.mem, hd, h.inv.pc, h.inv.stack, h.inv.waiting, h.inv.halted, h.inv.clear⟩, h.running, h.fetch⟩

theorem Inv.storeBytes (h : Inv s) {a : Nat} {bs : List Byte} (hb : a + bs.length ≤ 0x1000) :
    Inv (s.storeBytes a bs) where
  cfg := by simpa using h.cfg
  mem := by simpa using s.wf_storeBytes bs a h.mem hb
  disp := by simpa using h.disp
  pc := by simpa using h.pc
  stack := by simpa using h.stack
  waiting := by simpa using h.waiting
  halted := by simpa using h.halted
  clear := by simpa using h.clear

theorem Fetched.storeBytes (h : Fetched s) {a : Nat} {bs : List Byte} (hb : a + bs.length ≤ 0x1000) :
    Fetched (s.storeBytes a bs) :=
  ⟨h.inv.storeBytes hb, by simpa using h.running, by simpa using h.fetch⟩

/-- CALL pushes an address of at most 0x1000 (10_state R26, R28). -/
theorem Fetched.push (h : Fetched s) (e : s.push (s.pc + 2) = some t) : Fetched t := by
  obtain ⟨hsp, e'⟩ | ⟨-, e'⟩ := s.push_cases (s.pc + 2) <;> rw [e'] at e <;> cases e
  have hpc := fetchOk_le h.fetch
  have hstack : ∀ k : Fin 16, ((s.stack.set s.sp.val (s.pc + 2))[k.val]).toNat ≤ 0x1000 := by
    intro k
    rw [Vector.getElem_set]
    split
    · bv_omega
    · exact h.inv.stack k
  exact ⟨⟨h.inv.cfg, h.inv.mem, h.inv.disp, h.inv.pc, hstack, h.inv.waiting, h.inv.halted, h.inv.clear⟩,
    h.running, h.fetch⟩

/-- RET takes a stacked address, which is a good pc. -/
theorem Fetched.pop_jump (h : Fetched s) {w : Word} (e : s.pop = some (w, t)) : Inv (t.jump w) := by
  obtain ⟨hsp, e'⟩ | ⟨-, e'⟩ := s.pop_cases <;> rw [e'] at e <;> cases e
  have hw := h.inv.stack ⟨s.sp.val - 1, by have := s.sp.isLt; omega⟩
  exact h.congr.jump (hw.trans (by decide))

/-- Fx0A begins a wait on the fetchable pc it stands on (45_misc R181). -/
theorem Fetched.wait (h : Fetched s) (r : RegIx) : Inv ((s.rememberKeys.beginWait r).jump s.pc) :=
  ⟨h.inv.cfg, h.inv.mem, h.inv.disp, h.inv.pc, h.inv.stack, fun _ _ => h.fetch, nofun,
    fun _ => h.inv.clear (by simp [h.running])⟩

end Sys2Proof.Machine
end

section
/-! PROOFS. What an instruction can do, said once: it completes with a pc commit, or it raises a fatal failure. -/

namespace Sys2Proof.Machine

open Sys2Proof.Claims

variable {s t e : State} {i : Instr} {p : Word}

/-! ### The instructions that can fail, by the check they make -/

theorem exec_ret_of_pop {w : Word} (h : s.pop = some (w, t)) : exec .ret s = .next (t.jump w) := by
  simp only [exec, execRet, h]

theorem exec_ret_of_empty (h : s.pop = none) :
    exec .ret s = .next (s.raise .stackUnderflow (encode .ret) 0) := by
  simp only [exec, execRet, h]

theorem exec_call_of_push {nnn : Addr} (h : s.push (s.pc + 2) = some t) :
    exec (.call nnn) s = .next (t.jump (zextAddr nnn)) := by
  simp only [exec, execCall, h]

theorem exec_call_of_full {nnn : Addr} (h : s.push (s.pc + 2) = none) :
    exec (.call nnn) s = .next (s.raise .stackOverflow (encode (.call nnn)) 0) := by
  simp only [exec, execCall, h]

theorem exec_skp_of_key {x : RegIx} {k : Fin 16} (h : s.keyIndex x = some k) :
    exec (.skp x) s = .next (s.skipIf (s.keyPressed k)) := by
  simp only [exec, execSkp, h]

theorem exec_skp_of_noKey {x : RegIx} (h : s.keyIndex x = none) :
    exec (.skp x) s = .next (s.raise .operandOutOfRange (encode (.skp x)) 0) := by
  simp only [exec, execSkp, h]

theorem exec_sknp_of_key {x : RegIx} {k : Fin 16} (h : s.keyIndex x = some k) :
    exec (.sknp x) s = .next (s.skipIf (!s.keyPressed k)) := by
  simp only [exec, execSknp, h]

theorem exec_sknp_of_noKey {x : RegIx} (h : s.keyIndex x = none) :
    exec (.sknp x) s = .next (s.raise .operandOutOfRange (encode (.sknp x)) 0) := by
  simp only [exec, execSknp, h]

theorem exec_ldFVx_of_digit {x : RegIx} {d : Fin 16} (h : s.fontDigit x = some d) :
    exec (.ldFVx x) s = .next (s.setI (glyphAddress s.cfg d)).advance := by
  simp only [exec, execLdFVx, h]

theorem exec_ldFVx_of_noDigit {x : RegIx} (h : s.fontDigit x = none) :
    exec (.ldFVx x) s = .next (s.raise .operandOutOfRange (encode (.ldFVx x)) 0) := by
  simp only [exec, execLdFVx, h]

/-! ### Completion and failure -/

/-- `s` became `e` by what the instruction writes besides pc and the outcome, and the instruction completes with
`pc <- p` (30_encoding R76). Where a STEP runs it on a good machine, the machine stays good. -/
structure Completes (i : Instr) (s e : State) (p : Word) : Prop where
  answers : exec i s = .next (e.jump p)
  parts : KeepsAllBut (writtenParts i) s e
  regs : KeepsRegsBut (writtenRegs i) s e
  inv : Fetched s → Inv (e.jump p)

/-- The instruction raises a fatal failure (60_exceptions R204). -/
structure Fails (i : Instr) (s : State) (f : FailureCode) (w addr : Word) : Prop where
  answers : exec i s = .next (s.raise f w addr)
  fatal : f.number ∈ [2, 3, 4, 5]
  parts : [.rs, .sr] ⊆ writtenParts i

/-- A raised failure, its code and the parts of the instruction being routine. -/
theorem Fails.of_raise {f : FailureCode} {w addr : Word} (answers : exec i s = .next (s.raise f w addr))
    (fatal : f.number ∈ [2, 3, 4, 5] := by decide) (parts : [.rs, .sr] ⊆ writtenParts i := by simp [writtenParts]) :
    Fails i s f w addr :=
  ⟨answers, fatal, parts⟩

/-- Completion of an instruction that writes no general register. -/
theorem Completes.of_noRegs {ps : List Part} (answers : exec i s = .next (e.jump p)) (parts : KeepsAllBut ps s e)
    (inv : Fetched s → Inv (e.jump p)) (hsub : ps ⊆ writtenParts i := by simp [writtenParts])
    (hregs : .regs ∉ writtenParts i := by simp [writtenParts]) : Completes i s e p :=
  ⟨answers, parts.mono hsub, (parts.mono hsub).keepsRegsBut hregs _, inv⟩

/-- Completion of an instruction that writes pc only. -/
theorem Completes.of_pcOnly (answers : exec i s = .next (s.jump p)) (inv : Fetched s → Inv (s.jump p))
    (hregs : .regs ∉ writtenParts i := by simp [writtenParts]) : Completes i s s p :=
  .of_noRegs answers (.refl [] s) inv (by simp) hregs

/-- The exact sum that JMP V0+addr takes is within the bound of 10_state R26 (42_class9_to_C R142). -/
theorem toNat_zextByte_add_zextAddr_le (b : Byte) (a : Addr) : (zextByte b + zextAddr a).toNat ≤ 0x10FE := by
  have := b.isLt
  have := a.isLt
  simp only [zextByte, zextAddr, BitVec.toNat_add, BitVec.truncate_eq_setWidth, BitVec.toNat_setWidth]
  omega

theorem toNat_zextAddr_le (a : Addr) : (zextAddr a).toNat ≤ 0x10FE := by
  have := a.isLt
  simp only [zextAddr, BitVec.truncate_eq_setWidth, BitVec.toNat_setWidth]
  omega

/-- A block of at least one byte that may be stored ends inside memory (20_memory R56). -/
theorem State.storable_block_le {n : Nat} (h : ∀ a ∈ s.addresses (n + 1), mayStore s.cfg a = true) :
    s.i.toNat + (n + 1) ≤ 0x1000 :=
  ((mayStore_iff _ _).1 (h _ (State.mem_addresses.2 ⟨n, by omega, rfl⟩))).1

/-- A block store through I: with every address good the bytes are stored, else the store fails (20_memory R59). -/
theorem completes_or_fails_of_store {n : Nat} {bs : List Byte} {w : Word}
    (answers : exec i s = .next (s.checked (s.addresses (n + 1)) (mayStore s.cfg) w
      (s.storeBytes s.i.toNat bs).advance))
    (hlen : bs.length = n + 1) (hparts : writtenParts i = [.mem, .rs, .sr]) :
    (∃ e p, Completes i s e p) ∨ ∃ f w addr, Fails i s f w addr := by
  obtain ⟨hok, e⟩ | ⟨_, a, _, -, -, -, e⟩ := s.checked_cases (s.addresses (n + 1)) (mayStore s.cfg) w
    (s.storeBytes s.i.toNat bs).advance <;> rw [e] at answers
  · have hfits : s.i.toNat + bs.length ≤ 0x1000 := hlen ▸ State.storable_block_le hok
    exact .inl ⟨_, _, .of_noRegs answers (s.storeBytes_keeps _ bs) (fun h => (h.storeBytes hfits).advance)
      (by simp [hparts]) (by simp [hparts])⟩
  · exact .inr ⟨_, _, _, .of_raise answers (by decide) (by simp [hparts])⟩

/-- Every instruction, on every state, completes or fails. -/
theorem exec_cases (i : Instr) (s : State) : (∃ e p, Completes i s e p) ∨ ∃ f w addr, Fails i s f w addr := by
  cases i with
  | cls => exact .inl ⟨_, _, .of_noRegs rfl (s.setDisp_keeps _) fun h => (h.setDisp Display.wf_blank).advance⟩
  | ret =>
    cases e : s.pop with
    | some r =>
      exact .inl ⟨_, _, .of_noRegs (exec_ret_of_pop e) (State.pop_keeps e) fun h => h.pop_jump e⟩
    | none => exact .inr ⟨_, _, _, .of_raise (exec_ret_of_empty e)⟩
  | call nnn =>
    cases e : s.push (s.pc + 2) with
    | some pushed =>
      exact .inl ⟨_, _, .of_noRegs (exec_call_of_push e) (State.push_keeps e)
        fun h => (h.push e).jump (toNat_zextAddr_le nnn)⟩
    | none => exact .inr ⟨_, _, _, .of_raise (exec_call_of_full e)⟩
  | sys => exact .inl ⟨s, _, .of_pcOnly rfl Fetched.advance⟩
  | jpAddr nnn => exact .inl ⟨s, _, .of_pcOnly rfl fun h => h.jump (toNat_zextAddr_le nnn)⟩
  | jpV0 nnn =>
    exact .inl ⟨s, _, .of_pcOnly rfl fun h => h.jump (toNat_zextByte_add_zextAddr_le _ nnn)⟩
  | seImm | sneImm | seReg | sneReg => exact .inl ⟨s, _, .of_pcOnly rfl fun h => h.skipIf _⟩
  | ldImm x | addImm x | ldReg x | or x | and x | xor x | rnd x | ldVxDt x =>
    exact .inl ⟨_, _, rfl, s.setReg_keeps x _, s.setReg_keepsRegs x _, fun h => h.congr.advance⟩
  | addReg x | sub x =>
    exact .inl ⟨_, _, rfl, s.resultThenFlag_keeps x _ _, s.resultThenFlag_keepsRegs x _ _,
      fun h => h.congr.advance⟩
  | shr x | subn x | shl x =>
    exact .inl ⟨_, _, rfl, s.flagThenResult_keeps x _ _, s.flagThenResult_keepsRegs x _ _,
      fun h => h.congr.advance⟩
  | ldI | addIVx => exact .inl ⟨_, _, .of_noRegs rfl (s.setI_keeps _) fun h => h.congr.advance⟩
  | drw x y n =>
    obtain ⟨-, e⟩ | ⟨_, a, _, -, -, -, e⟩ :=
      s.checked_cases (s.addresses n.val) mayRead (encode (.drw x y n)) (s.drawn x y n)
    · exact .inl ⟨_, _, congrArg _ e, (s.setDisp_setReg_keeps _ vf _).mono (by simp [writtenParts]),
        State.setReg_keepsRegs _ vf _, fun h => (h.setDisp (Display.wf_blit h.inv.disp _)).congr.advance⟩
    · exact .inr ⟨_, _, _, .of_raise (congrArg _ e)⟩
  | skp x =>
    cases e : s.keyIndex x with
    | some k => exact .inl ⟨s, _, .of_pcOnly (exec_skp_of_key e) fun h => h.skipIf _⟩
    | none => exact .inr ⟨_, _, _, .of_raise (exec_skp_of_noKey e)⟩
  | sknp x =>
    cases e : s.keyIndex x with
    | some k => exact .inl ⟨s, _, .of_pcOnly (exec_sknp_of_key e) fun h => h.skipIf _⟩
    | none => exact .inr ⟨_, _, _, .of_raise (exec_sknp_of_noKey e)⟩
  | ldVxK x => exact .inl ⟨_, _, .of_noRegs rfl (s.beginWait_rememberKeys_keeps x) fun h => h.wait x⟩
  | ldDtVx x => exact .inl ⟨_, _, .of_noRegs rfl (s.setDt_keeps _) fun h => h.congr.advance⟩
  | ldStVx x => exact .inl ⟨_, _, .of_noRegs rfl (s.setSt_keeps _) fun h => h.congr.advance⟩
  | ldFVx x =>
    cases e : s.fontDigit x with
    | some d =>
      exact .inl ⟨_, _, .of_noRegs (exec_ldFVx_of_digit e) (s.setI_keeps _) fun h => h.congr.advance⟩
    | none => exact .inr ⟨_, _, _, .of_raise (exec_ldFVx_of_noDigit e)⟩
  | ldBVx x => exact completes_or_fails_of_store rfl (length_bcdDigits (s.reg x)) rfl
  | ldMemVx x => exact completes_or_fails_of_store rfl (s.length_regBlock x) rfl
  | ldVxMem x =>
    obtain ⟨-, e⟩ | ⟨_, a, _, -, -, -, e⟩ := s.checked_cases (s.addresses (x.val + 1)) mayRead
      (encode (.ldVxMem x)) (s.setRegs (writeRegs s.v 0 (s.readBytes s.i.toNat (x.val + 1)))).advance
    · exact .inl ⟨_, _, congrArg _ e, (s.setRegs_keeps _).mono (by simp [writtenParts]),
        s.setRegs_writeRegs_keepsRegs x (by simp), fun h => h.congr.advance⟩
    · exact .inr ⟨_, _, _, .of_raise (congrArg _ e)⟩

end Sys2Proof.Machine
end

section
/-! PROOFS. What the operations of the host can do, and what RESET leaves. -/

namespace Sys2Proof.Machine

open Sys2Proof.Claims

variable {s t : State}

/-- What a STEP can do, chosen by RS, the fetch check and the decoder (30_encoding R73). -/
theorem State.cycle_cases (s : State) :
    (s.rs = .halted ∧ s.cycle = .next (s.answer .isHalted)) ∨
      (∃ r, s.rs = .awaitingKey r ∧ s.cycle = .next (s.keyPoll r)) ∨
      (s.rs = .running ∧ fetchOk s.cfg s.pc = false ∧ s.cycle = .next (s.raise .addressOutOfRange 0 s.pc)) ∨
      (s.rs = .running ∧ fetchOk s.cfg s.pc = true ∧ s.cycle = .next (s.reportUnknown s.fetchWord)) ∨
      s.rs = .running ∧ fetchOk s.cfg s.pc = true ∧
        ∃ i, decode s.cfg.strict59 s.fetchWord = .instr i ∧ s.cycle = exec i s := by
  cases hrs : s.rs with
  | halted => simp [State.cycle, hrs]
  | awaitingKey r => simp [State.cycle, hrs]
  | running =>
    cases hf : fetchOk s.cfg s.pc with
    | false => simp [State.cycle, State.fetchExecute, hrs, hf]
    | true =>
      cases hd : decode s.cfg.strict59 s.fetchWord <;> simp [State.cycle, State.fetchExecute, hrs, hf, hd]

/-- What a poll can do: KL takes the snapshot, or a key completes the wait (44_keys R173). -/
theorem State.keyPoll_cases (s : State) (r : RegIx) :
    s.keyPoll r = s.rememberKeys.answer .waiting ∨
      ∃ k : Fin 16, s.qualifies k = true ∧ s.keyPoll r = (s.endWait.setReg r (BitVec.ofNat 8 k.val)).advance := by
  unfold State.keyPoll
  split
  · exact .inl rfl
  · next k h => exact .inr ⟨k, List.find?_some h, rfl⟩

/-- What a TICK can do: nothing to a HALTED machine, else one tick of each timer (60_exceptions R210). -/
theorem State.doTick_cases (s : State) :
    s.doTick = s.answer .none ∨
      s.doTick = ((s.setDt (tickTimer s.dt)).setSt (tickTimer s.st)).answer .none := by
  by_cases h : s.rs = .halted
  · simp [State.doTick, h]
  · exact .inr (State.doTick_of_not_halted h)

/-- What a LOAD that answers a next state can do: nothing to memory, or the image stored, which fits
(70_reset_and_hazards R232). -/
theorem State.doLoad_cases {image : List Byte} (h : s.doLoad image = .next t) :
    t = s.answer .programLoadError ∨
      (image.length ≤ 0xE00 ∧ t = (s.storeBytes 0x200 image).answer .ok) := by
  unfold State.doLoad at h
  split at h
  · split at h
    · exact .inl (Host.Outcome.next.inj h).symm
    · next hlen => exact .inr ⟨Nat.le_of_not_lt hlen, (Host.Outcome.next.inj h).symm⟩
  · simp at h

theorem Config.wf_iff (c : Config) :
    c.wf = true ↔ 1 ≤ c.displayW ∧ 1 ≤ c.displayH ∧ c.fontBase + 80 ≤ 0x200 := by
  simp [Config.wf, and_assoc]

/-! ### RESET -/

/-- FONT_DATA stands at FONT_BASE in the reset contents (70_reset_and_hazards R231). -/
theorem background_font (c : Config) (k : Fin 80) : background c (c.fontBase + k.val) = c.fontData[k.val] := by
  simp [background]

/-- Every other byte of the reset contents is 0 (10_state R47). -/
theorem background_outside {c : Config} {a : Nat} (h : a < c.fontBase ∨ c.fontBase + 80 ≤ a) :
    background c a = 0 := by
  unfold background
  split
  · rw [List.getD_eq_default]
    simp only [Vector.length_toList]
    omega
  · rfl

theorem State.holdsResetValues_doReset (s : State) : HoldsResetValues s.doReset := by
  refine ⟨fun k => ?_, rfl, rfl, rfl, fun k => ?_, rfl, rfl, Display.wf_blank, fun col row => ?_, rfl, rfl, rfl,
    background_font s.cfg, fun a => background_outside⟩
  · simp [State.doReset, State.resetWith, State.reg]
  · simp [State.doReset, State.resetWith]
  · exact Display.pixel_blank col row

/-- RESET gives a good machine, from any state whose parameters are good. -/
theorem State.inv_doReset (h : s.cfg.wf = true) : Inv s.doReset where
  cfg := h
  mem := Memory.wf_nil
  disp := Display.wf_blank
  pc := (by decide : (0x0200 : Word).toNat ≤ 0x10FE)
  stack k := by simp [State.doReset, State.resetWith]
  waiting := nofun
  halted := nofun
  clear _ := rfl

end Sys2Proof.Machine
end

section
/-! PROOFS. Every operation keeps the invariant and the parameters. -/

namespace Sys2Proof.Machine

open Sys2Proof.Claims

variable {s t : State}

theorem exec_keeps_inv {i : Instr} (h : Fetched s) (e : exec i s = .next t) : Inv t := by
  obtain ⟨e', p, hc⟩ | ⟨f, w, addr, hf⟩ := exec_cases i s
  · cases hc.answers.symm.trans e
    exact hc.inv h
  · cases hf.answers.symm.trans e
    exact h.inv.raise hf.fatal w addr

theorem State.keyPoll_keeps_inv {r : RegIx} (h : Inv s) (hr : s.rs = .awaitingKey r) : Inv (s.keyPoll r) := by
  obtain e | ⟨k, -, e⟩ := s.keyPoll_cases r <;> rw [e]
  · exact h.congr
  · have hended : Fetched s.endWait :=
      ⟨⟨h.cfg, h.mem, h.disp, h.pc, h.stack, nofun, nofun, fun _ => h.clear (by simp [hr])⟩, rfl, h.waiting r hr⟩
    exact hended.congr.advance

theorem State.reportUnknown_keeps_inv (h : Fetched s) (w : Word) : Inv (s.reportUnknown w) := by
  have hadv := h.advance
  exact ⟨hadv.cfg, hadv.mem, hadv.disp, hadv.pc, hadv.stack, hadv.waiting, hadv.halted, hadv.clear⟩

theorem State.cycle_keeps_inv (h : Inv s) (e : s.cycle = .next t) : Inv t := by
  obtain ⟨-, e'⟩ | ⟨r, hr, e'⟩ | ⟨-, -, e'⟩ | ⟨hr, hf, e'⟩ | ⟨hr, hf, i, -, e'⟩ := s.cycle_cases <;> rw [e'] at e
  · cases e; exact h.congr
  · cases e; exact State.keyPoll_keeps_inv h hr
  · cases e; exact h.raise (by decide) 0 s.pc
  · cases e; exact State.reportUnknown_keeps_inv ⟨h, hr, hf⟩ _
  · exact exec_keeps_inv ⟨h, hr, hf⟩ e

theorem State.doTick_keeps_inv (h : Inv s) : Inv s.doTick := by
  obtain e | e := s.doTick_cases <;> rw [e] <;> exact h.congr

theorem State.doLoad_keeps_inv {image : List Byte} (h : Inv s) (e : s.doLoad image = .next t) : Inv t := by
  obtain rfl | ⟨hlen, rfl⟩ := State.doLoad_cases e
  · exact h.congr
  · have hstored : Inv (s.storeBytes 0x200 image) := h.storeBytes (by omega)
    exact hstored.congr

theorem TakesStep.keeps_inv (h : TakesStep s t) (hs : Inv s) : Inv t := by
  obtain ⟨_, _, _, -, rfl⟩ | ⟨-, rfl⟩ := h <;> exact hs.congr

/-! ### The parameters -/

/-- No instruction writes the parameters (10_state R20). -/
theorem cfg_not_mem_writtenParts (i : Instr) : Part.cfg ∉ .pc :: .result :: writtenParts i := by
  cases i <;> simp [writtenParts]

/-- Every instruction leaves the parts it does not write. -/
theorem exec_keeps {i : Instr} (e : exec i s = .next t) : KeepsAllBut (.pc :: .result :: writtenParts i) s t := by
  obtain ⟨e', p, hc⟩ | ⟨f, w, addr, hf⟩ := exec_cases i s
  · cases hc.answers.symm.trans e
    exact hc.parts.jump p
  · cases hf.answers.symm.trans e
    exact (s.raise_keeps f w addr).mono (by simpa using hf.parts)

theorem State.cycle_keeps_cfg (e : s.cycle = .next t) : t.cfg = s.cfg := by
  obtain ⟨-, e'⟩ | ⟨r, -, e'⟩ | ⟨-, -, e'⟩ | ⟨-, -, e'⟩ | ⟨-, -, i, -, e'⟩ := s.cycle_cases <;> rw [e'] at e
  · cases e; rfl
  · cases e
    obtain e | ⟨k, -, e⟩ := s.keyPoll_cases r <;> rw [e] <;> rfl
  · cases e; rfl
  · cases e; rfl
  · exact exec_keeps e .cfg (cfg_not_mem_writtenParts i)

theorem State.doTick_cfg (s : State) : s.doTick.cfg = s.cfg := by
  obtain e | e := s.doTick_cases <;> rw [e] <;> rfl

theorem State.doLoad_keeps_cfg {image : List Byte} (e : s.doLoad image = .next t) : t.cfg = s.cfg := by
  obtain rfl | ⟨-, rfl⟩ := State.doLoad_cases e <;> simp

end Sys2Proof.Machine
end

section
/-! PROOFS. The statements of 10_state. -/

namespace Sys2Proof.Machine

/-- Settles O22, by the operation the step runs; a STEP by what its cycle can do. -/
theorem stepKeepsTheInvariant : Obligations.StepKeepsTheInvariant := by
  intro s t h e
  obtain ⟨-, e'⟩ | ⟨-, ⟨s', hs, e'⟩ | ⟨rest, -, e'⟩ | ⟨rest, -, e'⟩ | ⟨image, rest, -, e'⟩⟩ := step_cases s <;>
    rw [e'] at e
  · cases e
  · exact State.cycle_keeps_inv (hs.keeps_inv h) e
  · cases e; exact State.doTick_keeps_inv h.congr
  · cases e; exact State.inv_doReset h.cfg
  · exact State.doLoad_keeps_inv h.congr e

/-- Settles O16: what RESET leaves holds the reset values. -/
theorem resetGivesTheResetValues : Obligations.ResetGivesTheResetValues := fun _ _ hc hops =>
  ⟨_, step_eq_reset hc hops, State.holdsResetValues_doReset _, rfl⟩

/-- Settles O25: an instruction completes with OK, or fails with the machine HALTED. -/
theorem everyInstructionAnswersANextState : Obligations.EveryInstructionAnswersANextState := by
  intro i s
  obtain ⟨e, p, hc⟩ | ⟨f, w, addr, hf⟩ := exec_cases i s
  · exact ⟨_, hc.answers, .inl rfl⟩
  · exact ⟨_, hf.answers, .inr ⟨rfl, _, _, _, rfl⟩⟩

/-- Settles O26: a completion writes the registers listed, a failure none. -/
theorem registersChangeOnlyWhereWritten : Obligations.RegistersChangeOnlyWhereWritten := by
  intro i s t e
  obtain ⟨e', p, hc⟩ | ⟨f, w, addr, hf⟩ := exec_cases i s
  · cases hc.answers.symm.trans e
    exact hc.regs
  · cases hf.answers.symm.trans e
    exact (s.raise_keeps f w addr).keepsRegsBut (by decide) _

/-- Settles O27, by the frame of a completion and of a failure. -/
theorem partsChangeOnlyWhereWritten : Obligations.PartsChangeOnlyWhereWritten := fun _ _ _ e => exec_keeps e

/-- Settles O28, by the operation the step runs. -/
theorem parametersNeverChange : Obligations.ParametersNeverChange := by
  intro s t e
  obtain ⟨-, e'⟩ | ⟨-, ⟨s', hs, e'⟩ | ⟨rest, -, e'⟩ | ⟨rest, -, e'⟩ | ⟨image, rest, -, e'⟩⟩ := step_cases s <;>
    rw [e'] at e
  · cases e
  · exact (State.cycle_keeps_cfg e).trans (hs.keeps .cfg (by decide))
  · cases e; exact State.doTick_cfg _
  · cases e; rfl
  · simpa using State.doLoad_keeps_cfg e

/-- Settles O17: the start state is, field by field, what RESET leaves of it. -/
theorem startStateHoldsTheResetValues : Obligations.StartStateHoldsTheResetValues :=
  ⟨State.reset.holdsResetValues_doReset, rfl, by decide⟩

/-- Settles O21: parameters that break one of the three bounds are not well formed, so no operation is run. -/
theorem badConfigurationIsRefused : Obligations.BadConfigurationIsRefused := by
  intro s hbad
  obtain ⟨-, e⟩ | ⟨hc, -⟩ := step_cases s
  · exact e
  · have := (Config.wf_iff _).1 hc
    omega

/-- Settles O23: the start state is, field by field, what RESET leaves of it. -/
theorem resetMeetsTheInvariant : Obligations.ResetMeetsTheInvariant :=
  State.inv_doReset (s := State.reset) (by decide)

end Sys2Proof.Machine
end

section
/-! PROOFS. The fetch: what its check passes, the word it reads, and the STEP that fails it (20_memory R52, R57). -/

namespace Sys2Proof.Machine

variable {s : State}

/-- The fetch check, as 20_memory R57 states it. -/
theorem fetchOk_iff (c : Config) (pc : Word) :
    fetchOk c pc = true ↔ 0x200 ≤ pc.toNat ∧ pc.toNat ≤ 0xFFE ∧ (pc.toNat % 2 = 0 ∨ c.allowOddPc = true) := by
  simp [fetchOk, and_assoc, or_comm]

/-- The high byte first (20_memory R52). -/
theorem toNat_wordOfBytes (hi lo : Byte) : (wordOfBytes hi lo).toNat = hi.toNat * 256 + lo.toNat := by
  rw [wordOfBytes, BitVec.toNat_append, ← Nat.shiftLeft_add_eq_or_of_lt lo.isLt, Nat.shiftLeft_eq]

theorem State.toNat_fetchWord (s : State) :
    s.fetchWord.toNat = (s.readByte s.pc.toNat).toNat * 256 + (s.readByte (s.pc.toNat + 1)).toNat :=
  toNat_wordOfBytes _ _

/-- A RUNNING cycle whose fetch check fails raises AddressOutOfRange before it decodes (30_encoding R74). -/
theorem State.cycle_of_badFetch (hr : s.rs = .running) (hf : fetchOk s.cfg s.pc = false) :
    s.cycle = .next (s.raise .addressOutOfRange 0 s.pc) := by
  simp [State.cycle, State.fetchExecute, hr, hf]

end Sys2Proof.Machine
end

section
/-! PROOFS. What STORE leaves in memory (45_misc R188). -/

namespace Sys2Proof.Machine

open Sys2Proof.Claims

variable {s t : State} {x k : RegIx}

theorem State.mayStore_addresses_of_storable {n : Nat} (h : Storable s n) :
    ∀ a ∈ s.addresses n, mayStore s.cfg a = true := by
  intro a ha
  obtain ⟨k, hk, rfl⟩ := State.mem_addresses.1 ha
  exact (mayStore_iff _ _).2 (h k hk)

/-- STORE, with every address good, completes with the block stored. -/
theorem exec_ldMemVx_of_storable (h : Storable s (x.val + 1)) :
    exec (.ldMemVx x) s = .next (s.storeBytes s.i.toNat (s.regBlock x)).advance :=
  congrArg _ (s.checked_ok _ _ (State.mayStore_addresses_of_storable h))

/-- A register of the block stands at its offset from the block's address. -/
theorem State.readByte_storeBytes_regBlock (hm : Memory.wf s.cfg s.mem) (a : Nat) (hk : k ≤ x) :
    (s.storeBytes a (s.regBlock x)).readByte (a + k.val) = s.reg k := by
  obtain ⟨hrising, -⟩ := hm
  have hlt : k.val < (s.regBlock x).length := by simpa [Nat.lt_succ_iff] using hk
  rw [s.readByte_storeBytes_inside (s.regBlock x) a k.val hrising hlt, s.getElem_regBlock]

/-- After a STORE that passes its checks, V[k] is read at I + k. -/
theorem readByte_of_exec_ldMemVx (hm : Memory.wf s.cfg s.mem) (h : Storable s (x.val + 1))
    (e : exec (.ldMemVx x) s = .next t) (hk : k ≤ x) : t.readByte (s.i.toNat + k.val) = s.reg k := by
  cases (exec_ldMemVx_of_storable h).symm.trans e
  exact State.readByte_storeBytes_regBlock hm _ hk

end Sys2Proof.Machine
end

section
/-! PROOFS. The statements of 20_memory. -/

namespace Sys2Proof.Machine

/-- Settles O9: the STEP is the cycle of the state with its inputs taken in, and that cycle raises. -/
theorem badFetchHalts : Obligations.BadFetchHalts := by
  refine ⟨fun s s' hc hs hr hbad => ?_, fun c pc => (fetchOk_iff c pc).2⟩
  have hpc : s'.pc = s.pc := hs.keeps .pc (by decide)
  have hcfg : s'.cfg = s.cfg := hs.keeps .cfg (by decide)
  have hrs : s'.rs = s.rs := hs.keeps .rs (by decide)
  have hf : fetchOk s'.cfg s'.pc = false := by
    rw [hcfg, hpc, ← Bool.not_eq_true, fetchOk_iff]
    exact hbad
  refine ⟨_, (step_eq_cycle hc hs).trans (State.cycle_of_badFetch (hrs.trans hr) hf), ?_⟩
  exact hpc ▸ s'.raise_haltsWith .addressOutOfRange 0 s'.pc

/-- Settles O58: both bytes the fetch reads are bytes of the block stored. -/
theorem storedCodeIsFetched : Obligations.StoredCodeIsFetched := by
  intro x s t u k j hj hjx hm hst e hmem hcfg hpc
  have hkj : k ≤ j := Fin.le_def.2 (by omega)
  have hk := readByte_of_exec_ldMemVx hm hst e (hkj.trans hjx)
  have hj' := readByte_of_exec_ldMemVx hm hst e hjx
  rw [u.toNat_fetchWord, hpc, Nat.add_assoc, ← hj, State.readByte_congr hmem hcfg, State.readByte_congr hmem hcfg,
    hk, hj']

/-- Settles O8, by the word the fetch puts together. -/
theorem fetchIsBigEndian : Obligations.FetchIsBigEndian := State.toNat_fetchWord

end Sys2Proof.Machine
end

section
/-! PROOFS. The decoder, said once: an instruction is read from a word exactly where the word's fields are those of the
instruction's layout (30_encoding R75, R83), and under STRICT_5_9 = false from every other spelling of it (R81). -/

namespace Sys2Proof

open Laws.FieldsOfWord Claims

variable {strict : Bool} {v w : Word} {i j : Instr} {x y n : Fin 16} {kk : Byte} {nnn : Addr}

/-! ### What each selector answers with -/

theorem dispatchSkip_eq_instr_iff : dispatchSkip strict n i = .instr j ↔ (strict = false ∨ n = 0) ∧ i = j := by
  unfold dispatchSkip
  cases strict <;> by_cases h : n = 0 <;> simp [h]

theorem layout_of_dispatchAlu (h : dispatchAlu x y n = .instr i) : i.wf = true ∧ layout i = .xyn 0x8 x y n := by
  unfold dispatchAlu at h
  split at h <;> cases h <;> exact ⟨rfl, congrArg (Layout.xyn 0x8 x y) (Fin.ext (Eq.symm ‹_›))⟩

theorem layout_of_dispatchKey (h : dispatchKey x kk = .instr i) : i.wf = true ∧ layout i = .xkk 0xE x kk := by
  unfold dispatchKey at h
  split at h <;> cases h <;> exact ⟨rfl, congrArg (Layout.xkk 0xE x) (BitVec.eq_of_toNat_eq (Eq.symm ‹_›))⟩

theorem layout_of_dispatchMisc (h : dispatchMisc x kk = .instr i) : i.wf = true ∧ layout i = .xkk 0xF x kk := by
  unfold dispatchMisc at h
  split at h <;> cases h <;> exact ⟨rfl, congrArg (Layout.xkk 0xF x) (BitVec.eq_of_toNat_eq (Eq.symm ‹_›))⟩

/-- A word of class 0 is its own nnn, so SYS is read from the words that are not CLS or RET only (R80). -/
theorem wf_and_fits_of_dispatchClass0 (hc : (fields w).cls.val = 0x0) :
    (dispatchClass0 w (fields w).nnn).wf = true ∧ (layout (dispatchClass0 w (fields w).nnn)).fits w := by
  unfold dispatchClass0
  split
  · next h => exact ⟨rfl, h⟩
  split
  · next h => exact ⟨rfl, h⟩
  · next hcls hret =>
    have hw : w = (fields w).nnn.setWidth 16 := by
      have := fields_eq w
      exact BitVec.eq_of_toNat_eq (by simp; omega)
    refine ⟨?_, hc, rfl⟩
    simp only [Instr.wf, Bool.and_eq_true, bne_iff_ne]
    exact ⟨fun h => hcls (by rw [hw, h]; rfl), fun h => hret (by rw [hw, h]; rfl)⟩

theorem decode_of_class5 (hc : (fields w).cls.val = 0x5) :
    decode strict w = dispatchSkip strict (fields w).n (.seReg (fields w).x (fields w).y) := by
  simp [decode, dispatch, hc]

theorem decode_of_class9 (hc : (fields w).cls.val = 0x9) :
    decode strict w = dispatchSkip strict (fields w).n (.sneReg (fields w).x (fields w).y) := by
  simp [decode, dispatch, hc]

/-! ### Words and layouts -/

/-- A layout is the layout of one word. -/
theorem fits_unique {l : Layout} (hv : l.fits v) (hw : l.fits w) : v = w := by
  have hv' := fields_eq v
  have hw' := fields_eq w
  cases l with
  | fixed u => exact hv.trans hw.symm
  | nnn c a =>
    obtain ⟨rfl, rfl⟩ := hv
    obtain ⟨hcls, hnnn⟩ := hw
    rw [hcls, hnnn] at hw'
    exact BitVec.eq_of_toNat_eq (by omega)
  | xkk c x kk =>
    obtain ⟨rfl, rfl, rfl⟩ := hv
    obtain ⟨hcls, hx, hkk⟩ := hw
    rw [hcls, hx, hkk] at hw'
    exact BitVec.eq_of_toNat_eq (by omega)
  | xyn c x y n =>
    obtain ⟨rfl, rfl, rfl, rfl⟩ := hv
    obtain ⟨hcls, hx, hy, hn⟩ := hw
    rw [hcls, hx, hy, hn] at hw'
    exact BitVec.eq_of_toNat_eq (by omega)

theorem fits_encode : (i : Instr) → (layout i).fits (encode i)
  | .cls => cls
  | .ret => ret
  | .sys nnn => sys nnn
  | .jpAddr nnn => jpAddr nnn
  | .call nnn => call nnn
  | .seImm x kk => seImm x kk
  | .sneImm x kk => sneImm x kk
  | .seReg x y => seReg x y
  | .ldImm x kk => ldImm x kk
  | .addImm x kk => addImm x kk
  | .ldReg x y => ldReg x y
  | .or x y => or x y
  | .and x y => and x y
  | .xor x y => xor x y
  | .addReg x y => addReg x y
  | .sub x y => sub x y
  | .shr x y => shr x y
  | .subn x y => subn x y
  | .shl x y => shl x y
  | .sneReg x y => sneReg x y
  | .ldI nnn => ldI nnn
  | .jpV0 nnn => jpV0 nnn
  | .rnd x kk => rnd x kk
  | .drw x y n => drw x y n
  | .skp x => skp x
  | .sknp x => sknp x
  | .ldVxDt x => ldVxDt x
  | .ldVxK x => ldVxK x
  | .ldDtVx x => ldDtVx x
  | .ldStVx x => ldStVx x
  | .addIVx x => addIVx x
  | .ldFVx x => ldFVx x
  | .ldBVx x => ldBVx x
  | .ldMemVx x => ldMemVx x
  | .ldVxMem x => ldVxMem x

/-! ### The decoder and the layouts -/

theorem decode_of_fits (hwf : i.wf = true) (h : (layout i).fits w) : decode strict w = .instr i := by
  cases i
  case cls => cases h; rfl
  case ret => cases h; rfl
  case sys nnn =>
    obtain ⟨hc, rfl⟩ := h
    have hcls : w ≠ 0x00E0#16 := by rintro rfl; exact absurd hwf (by decide)
    have hret : w ≠ 0x00EE#16 := by rintro rfl; exact absurd hwf (by decide)
    simp [decode, dispatch, hc, dispatchClass0, hcls, hret]
  all_goals
    simp only [layout] at h
    simp [decode, dispatch, dispatchSkip, dispatchAlu, dispatchKey, dispatchMisc, h]

theorem decode_encode (strict : Bool) (hwf : i.wf = true) : decode strict (encode i) = .instr i :=
  decode_of_fits hwf (fits_encode i)

/-- With STRICT_5_9 no spelling but the canonical one is left, so the converse holds for every class. -/
theorem wf_and_fits_of_decode_true (h : decode true w = .instr i) : i.wf = true ∧ (layout i).fits w := by
  unfold decode dispatch at h
  split at h
  case h_1 hc => cases h; exact wf_and_fits_of_dispatchClass0 hc
  case h_2 hc | h_3 hc | h_11 hc | h_12 hc => cases h; exact ⟨rfl, hc, rfl⟩
  case h_4 hc | h_5 hc | h_7 hc | h_8 hc | h_13 hc => cases h; exact ⟨rfl, hc, rfl, rfl⟩
  case h_6 hc | h_10 hc =>
    obtain ⟨hn, rfl⟩ := dispatchSkip_eq_instr_iff.1 h
    exact ⟨rfl, hc, rfl, rfl, by simpa using hn⟩
  case h_9 hc =>
    obtain ⟨hwf, hl⟩ := layout_of_dispatchAlu h
    rw [hl]; exact ⟨hwf, hc, rfl, rfl, rfl⟩
  case h_14 hc => cases h; exact ⟨rfl, hc, rfl, rfl, rfl⟩
  case h_15 hc =>
    obtain ⟨hwf, hl⟩ := layout_of_dispatchKey h
    rw [hl]; exact ⟨hwf, hc, rfl, rfl⟩
  case h_16 =>
    have hc : (fields w).cls.val = 0xF := by grind
    obtain ⟨hwf, hl⟩ := layout_of_dispatchMisc h
    rw [hl]; exact ⟨hwf, hc, rfl, rfl⟩

/-! ### The canonical spelling (30_encoding R81) -/

theorem skipClass_iff (w : Word) : (w &&& 0xF000 = 0x5000 ∨ w &&& 0xF000 = 0x9000) ↔
    ((fields w).cls.val = 0x5 ∨ (fields w).cls.val = 0x9) :=
  or_congr (and_F000_eq_iff w (c := 0x5) (by decide)) (and_F000_eq_iff w (c := 0x9) (by decide))

theorem fields_and_FFF0 (w : Word) : (fields (w &&& 0xFFF0)).cls = (fields w).cls ∧
    (fields (w &&& 0xFFF0)).x = (fields w).x ∧ (fields (w &&& 0xFFF0)).y = (fields w).y ∧
    (fields (w &&& 0xFFF0)).n = 0 := by
  have h := fields_eq w
  have h' := fields_eq (w &&& 0xFFF0)
  rw [toNat_and_FFF0] at h'
  simp only [Fin.ext_iff, Fin.val_zero]
  omega

/-- Ignoring the low nibble of 5xyN and 9xyN is clearing it and then insisting on 0. -/
theorem decode_true_canonicalWord (w : Word) : decode true (canonicalWord w) = decode false w := by
  by_cases hskip : (fields w).cls.val = 0x5 ∨ (fields w).cls.val = 0x9
  · rw [canonicalWord, if_pos ((skipClass_iff w).2 hskip)]
    obtain ⟨hcls, hx, hy, hn⟩ := fields_and_FFF0 w
    obtain hc | hc := hskip
    · rw [decode_of_class5 hc, decode_of_class5 (hcls ▸ hc), hx, hy, hn]; rfl
    · rw [decode_of_class9 hc, decode_of_class9 (hcls ▸ hc), hx, hy, hn]; rfl
  · rw [canonicalWord, if_neg (mt (skipClass_iff w).1 hskip), decode, decode]
    unfold dispatch
    split
    case h_6 hc => exact absurd (.inl hc) hskip
    case h_10 hc => exact absurd (.inr hc) hskip
    all_goals rfl

/-- STRICT_5_9 only takes instructions away. -/
theorem decode_false_of_decode (h : decode strict w = .instr i) : decode false w = .instr i := by
  cases strict with
  | false => exact h
  | true =>
    obtain ⟨hwf, hfits⟩ := wf_and_fits_of_decode_true h
    exact decode_of_fits hwf hfits

/-! ### The rows of 30_encoding R83 as sums of nibbles -/

theorem decode_ofNat {word : Nat} (h : BitVec.ofNat 16 word = encode i) (hwf : i.wf = true := by rfl) :
    decode strict (BitVec.ofNat 16 word) = .instr i :=
  h ▸ decode_encode strict hwf

/-- Format XYS: the class and the sub-op, then the registers. -/
theorem ofNat_xys (c : Nat) (x y s : Fin 16) :
    BitVec.ofNat 16 (c * 0x1000 + s.val + x.val * 0x100 + y.val * 0x10) = wordXYN c x y s :=
  congrArg _ (by omega)

/-- Format XSS: the class and the sub-op, then the register. -/
theorem ofNat_xss (c : Nat) (x : RegIx) (ss : Byte) :
    BitVec.ofNat 16 (c * 0x1000 + ss.toNat + x.val * 0x100) = wordXKK c x ss :=
  congrArg _ (by omega)

theorem wf_sys_of_notMem (h : nnn.toNat ∉ [0x0E0, 0x0EE]) : (Instr.sys nnn).wf = true := by
  simp only [Instr.wf, Bool.and_eq_true, bne_iff_ne]
  exact ⟨fun e => h (by simp [e]), fun e => h (by simp [e])⟩

theorem decode_5xyN (hn : strict = false ∨ n = 0) : decode strict (wordXYN 0x5 x y n) = .instr (.seReg x y) := by
  obtain ⟨hc, hx, hy, hn'⟩ := fields_wordXYN (c := 0x5) (by decide) x y n
  rw [decode_of_class5 hc, hx, hy, hn']
  exact dispatchSkip_eq_instr_iff.2 ⟨hn, rfl⟩

theorem decode_9xyN (hn : strict = false ∨ n = 0) : decode strict (wordXYN 0x9 x y n) = .instr (.sneReg x y) := by
  obtain ⟨hc, hx, hy, hn'⟩ := fields_wordXYN (c := 0x9) (by decide) x y n
  rw [decode_of_class9 hc, hx, hy, hn']
  exact dispatchSkip_eq_instr_iff.2 ⟨hn, rfl⟩

end Sys2Proof
end

section
/-! PROOFS. The UNKNOWN words by their class and low byte (30_encoding R84). -/

namespace Sys2Proof

open Claims

variable {strict : Bool} {w : Word} {i : Instr} {x y n : Fin 16} {kk : Byte}

theorem dispatchSkip_eq_unknown_iff :
    (∃ why, dispatchSkip strict n i = .unknown why) ↔ strict = true ∧ n.val ≠ 0 := by
  unfold dispatchSkip
  cases strict <;> by_cases h : n = 0 <;> simp [h]

theorem dispatchAlu_eq_unknown_iff :
    (∃ why, dispatchAlu x y n = .unknown why) ↔ n.val ∈ [0x8, 0x9, 0xA, 0xB, 0xC, 0xD, 0xF] := by
  fin_cases n <;> simp [dispatchAlu]

theorem dispatchKey_eq_unknown_iff : (∃ why, dispatchKey x kk = .unknown why) ↔ kk.toNat ∉ [0x9E, 0xA1] := by
  unfold dispatchKey
  split <;> simp_all

theorem dispatchMisc_eq_unknown_iff : (∃ why, dispatchMisc x kk = .unknown why) ↔
    kk.toNat ∉ [0x07, 0x0A, 0x15, 0x18, 0x1E, 0x29, 0x33, 0x55, 0x65] := by
  unfold dispatchMisc
  split <;> simp_all

theorem isUnknown_eq_true_iff : isUnknown strict w = true ↔ ∃ why, decode strict w = .unknown why := by
  unfold isUnknown
  cases decode strict w <;> simp

/-- Whether R84 lists the words of class `c` with low byte `k`: no UNKNOWN word depends on x. -/
def listedAt (strict : Bool) (c k : Nat) : Bool :=
  match c with
  | 0x5 | 0x9 => strict && decide (k % 16 ≠ 0)
  | 0x8 => decide (k % 16 ∈ [0x8, 0x9, 0xA, 0xB, 0xC, 0xD, 0xF])
  | 0xE => decide (k ∉ [0x9E, 0xA1])
  | 0xF => decide (k ∉ [0x07, 0x0A, 0x15, 0x18, 0x1E, 0x29, 0x33, 0x55, 0x65])
  | _ => false

theorem fields_n_eq_kk_mod (w : Word) : (fields w).n.val = (fields w).kk.toNat % 16 := by
  have := fields_eq w
  omega

theorem isUnknown_eq_listedAt (strict : Bool) (w : Word) :
    isUnknown strict w = listedAt strict (fields w).cls.val (fields w).kk.toNat := by
  rw [Bool.eq_iff_iff, isUnknown_eq_true_iff]
  unfold decode dispatch
  split
  case h_6 hc | h_10 hc => simp [hc, dispatchSkip_eq_unknown_iff, listedAt, fields_n_eq_kk_mod]
  case h_9 hc => simp [hc, dispatchAlu_eq_unknown_iff, listedAt, fields_n_eq_kk_mod]
  case h_15 hc => simp [hc, dispatchKey_eq_unknown_iff, listedAt]
  case h_16 =>
    have hc : (fields w).cls.val = 0xF := by grind
    simp [hc, dispatchMisc_eq_unknown_iff, listedAt]
  all_goals next hc => simp [hc, listedAt]

theorem listedUnknown_iff_listedAt (strict : Bool) (w : Word) :
    ListedUnknown strict w ↔ listedAt strict (fields w).cls.val (fields w).kk.toNat = true := by
  have h8 : w &&& 0xF000 = 0x8000 ↔ _ := and_F000_eq_iff w (c := 0x8) (by decide)
  have hE : w &&& 0xF000 = 0xE000 ↔ _ := and_F000_eq_iff w (c := 0xE) (by decide)
  have hF : w &&& 0xF000 = 0xF000 ↔ _ := and_F000_eq_iff w (c := 0xF) (by decide)
  have hkk : w.toNat % 256 = (fields w).kk.toNat := by have := fields_eq w; omega
  have hn : w.toNat % 16 = (fields w).kk.toNat % 16 := by omega
  rw [ListedUnknown, h8, hE, hF, skipClass_iff, Ne, ← BitVec.toNat_inj, toNat_and_000F, toNat_and_00FF, hkk, hn]
  generalize (fields w).cls = c
  fin_cases c <;> simp [listedAt]

theorem isUnknown_ofNat (strict : Bool) {k : Nat} (hk : k < 65536) :
    isUnknown strict (BitVec.ofNat 16 k) = listedAt strict (k / 4096) (k % 256) := by
  have hc : k / 4096 < 16 := by omega
  rw [isUnknown_eq_listedAt, fields_ofNat hk]
  simp [Nat.mod_eq_of_lt hc]

/-! ### Counting -/

/-- `m * n` numbers, counted as `m` blocks of `n`. -/
theorem countP_range_mul (m n : Nat) (p : Nat → Bool) :
    (List.range (m * n)).countP p =
      ((List.range m).map fun a => (List.range n).countP fun b => p (a * n + b)).sum := by
  induction m with
  | zero => simp
  | succ m ih => simp [Nat.succ_mul, List.range_add, List.range_succ, ih, List.countP_map, Function.comp_def]

theorem countP_range_mul_mod (m n : Nat) (p : Nat → Bool) :
    (List.range (m * n)).countP (fun k => p (k % n)) = m * (List.range n).countP p := by
  have hblock (a : Nat) : (List.range n).countP (fun b => p ((a * n + b) % n)) = (List.range n).countP p :=
    List.countP_congr fun b hb => by rw [Nat.mul_add_mod_of_lt (List.mem_range.1 hb)]
  rw [countP_range_mul]
  simp only [hblock]
  simp

theorem countP_range_notMem {n : Nat} {l : List Nat} (hl : l.Nodup) (hn : ∀ k ∈ l, k < n) :
    (List.range n).countP (fun k => decide (k ∉ l)) = n - l.length := by
  have hmem : (List.range n).countP (fun k => decide (k ∈ l)) = l.length := by
    rw [List.countP_eq_length_filter]
    refine List.Perm.length_eq ((List.perm_ext_iff_of_nodup (List.nodup_range.filter _) hl).2 fun k => ?_)
    simpa using hn k
  have h := List.length_eq_countP_add_countP (fun k => decide (k ∈ l)) (l := List.range n)
  simp only [List.length_range, hmem, decide_eq_true_eq] at h
  omega

/-- A property of class and low byte holds of 16 words, one for each x, at each class and low byte it holds of. -/
theorem countP_words (p : Nat → Nat → Bool) :
    (List.range 65536).countP (fun k => p (k / 4096) (k % 256)) =
      ((List.range 16).map fun c => 16 * (List.range 256).countP (p c)).sum := by
  have hclass (c : Nat) : (List.range 4096).countP (fun b => p ((c * 4096 + b) / 4096) ((c * 4096 + b) % 256)) =
      16 * (List.range 256).countP (p c) := by
    rw [← countP_range_mul_mod 16 256]
    refine List.countP_congr fun b hb => ?_
    have := List.mem_range.1 hb
    rw [show (c * 4096 + b) / 4096 = c by omega, show (c * 4096 + b) % 256 = b % 256 by omega]
  have h := countP_range_mul 16 4096 (fun k => p (k / 4096) (k % 256))
  simp only [hclass] at h
  exact h

theorem countP_listedAt_skip {c : Nat} (hc : c = 0x5 ∨ c = 0x9) :
    (List.range 256).countP (listedAt strict c) = if strict then 16 * 15 else 0 := by
  have hn : listedAt strict c = fun k => strict && decide (k % 16 ≠ 0) := by obtain rfl | rfl := hc <;> rfl
  rw [hn]
  cases strict with
  | false => simp
  | true => exact countP_range_mul_mod 16 16 fun k => decide (k ≠ 0)

/-- The low bytes of each class that R84 lists. -/
theorem sum_countP_listedAt (strict : Bool) :
    ((List.range 16).map fun c => 16 * (List.range 256).countP (listedAt strict c)).sum =
      if strict then 17488 else 9808 := by
  have hAlu : (List.range 256).countP (listedAt strict 0x8) = 16 * 7 :=
    countP_range_mul_mod 16 16 fun k => decide (k ∈ [0x8, 0x9, 0xA, 0xB, 0xC, 0xD, 0xF])
  have hKey : (List.range 256).countP (listedAt strict 0xE) = 256 - 2 :=
    countP_range_notMem (l := [0x9E, 0xA1]) (by decide) (by decide)
  have hMisc : (List.range 256).countP (listedAt strict 0xF) = 256 - 9 :=
    countP_range_notMem (l := [0x07, 0x0A, 0x15, 0x18, 0x1E, 0x29, 0x33, 0x55, 0x65]) (by decide) (by decide)
  have hNone {c : Nat} (hc : c ∈ [0x0, 0x1, 0x2, 0x3, 0x4, 0x6, 0x7, 0xA, 0xB, 0xC, 0xD]) :
      (List.range 256).countP (listedAt strict c) = 0 := by
    fin_cases hc <;> exact List.countP_eq_zero.2 fun _ _ => Bool.false_ne_true
  rw [show List.range 16 = [0, 1, 2, 3, 4, 5, 6, 7, 8, 9, 10, 11, 12, 13, 14, 15] from rfl]
  cases strict <;> simp [hAlu, hKey, hMisc, countP_listedAt_skip, hNone]

theorem countP_isUnknown (strict : Bool) :
    (List.range 65536).countP (fun k => isUnknown strict (BitVec.ofNat 16 k)) = if strict then 17488 else 9808 :=
  calc
    _ = (List.range 65536).countP (fun k => listedAt strict (k / 4096) (k % 256)) :=
      List.countP_congr fun k hk => by rw [isUnknown_ofNat strict (List.mem_range.1 hk)]
    _ = ((List.range 16).map fun c => 16 * (List.range 256).countP (listedAt strict c)).sum := countP_words _
    _ = _ := sum_countP_listedAt strict

end Sys2Proof
end

section
/-! PROOFS. The statements of 30_encoding. -/

namespace Sys2Proof.Machine

open Sys2Proof.Claims

/-- A RUNNING cycle whose fetch succeeds and whose word is an instruction's runs that instruction (30_encoding R73). -/
theorem State.cycle_of_decode {s : State} {i : Instr} (hr : s.rs = .running) (hf : fetchOk s.cfg s.pc = true)
    (hd : decode s.cfg.strict59 s.fetchWord = .instr i) : s.cycle = exec i s := by
  simp [State.cycle, State.fetchExecute, hr, hf, hd]

/-- Settles O1: the instruction's own word has the fields of its layout, and the decoder reads a layout back. -/
theorem decodeOfEncodeIsIdentity : Obligations.DecodeOfEncodeIsIdentity := fun strict _ hwf => decode_encode strict hwf

/-- Settles O2: the canonical spelling decodes under STRICT_5_9, so it has the fields of the instruction's layout, and
they are the fields of no other word. -/
theorem decodedWordsEncodeBack : Obligations.DecodedWordsEncodeBack := by
  intro strict w i h
  have h' : decode true (canonicalWord w) = .instr i :=
    (decode_true_canonicalWord w).trans (decode_false_of_decode h)
  obtain ⟨hwf, hfits⟩ := wf_and_fits_of_decode_true h'
  exact ⟨hwf, fits_unique (fits_encode i) hfits⟩

/-- Settles O3: but for the ignored nibble of 5xyN and 9xyN, each sum is the encoding of its instruction. -/
theorem everyPatternDecodesToItsInstruction : Obligations.EveryPatternDecodesToItsInstruction := by
  intro strict x y n kk nnn
  refine ⟨⟨decode_ofNat rfl, decode_ofNat rfl, fun h => decode_ofNat (congrArg _ (by omega)) (wf_sys_of_notMem h),
      decode_ofNat rfl, decode_ofNat rfl, decode_ofNat rfl, decode_ofNat rfl, decode_5xyN, decode_ofNat rfl,
      decode_ofNat rfl⟩, ⟨?_, ?_, ?_, ?_, ?_, ?_, ?_, ?_, ?_⟩, ⟨decode_9xyN, decode_ofNat rfl, decode_ofNat rfl,
      decode_ofNat rfl, decode_ofNat rfl, ?_, ?_⟩, ?_, ?_, ?_, ?_, ?_, ?_, ?_, ?_, ?_⟩
  · exact decode_ofNat (ofNat_xys 0x8 x y 0x0)
  · exact decode_ofNat (ofNat_xys 0x8 x y 0x1)
  · exact decode_ofNat (ofNat_xys 0x8 x y 0x2)
  · exact decode_ofNat (ofNat_xys 0x8 x y 0x3)
  · exact decode_ofNat (ofNat_xys 0x8 x y 0x4)
  · exact decode_ofNat (ofNat_xys 0x8 x y 0x5)
  · exact decode_ofNat (ofNat_xys 0x8 x y 0x6)
  · exact decode_ofNat (ofNat_xys 0x8 x y 0x7)
  · exact decode_ofNat (ofNat_xys 0x8 x y 0xE)
  · exact decode_ofNat (ofNat_xss 0xE x 0x9E)
  · exact decode_ofNat (ofNat_xss 0xE x 0xA1)
  · exact decode_ofNat (ofNat_xss 0xF x 0x07)
  · exact decode_ofNat (ofNat_xss 0xF x 0x0A)
  · exact decode_ofNat (ofNat_xss 0xF x 0x15)
  · exact decode_ofNat (ofNat_xss 0xF x 0x18)
  · exact decode_ofNat (ofNat_xss 0xF x 0x1E)
  · exact decode_ofNat (ofNat_xss 0xF x 0x29)
  · exact decode_ofNat (ofNat_xss 0xF x 0x33)
  · exact decode_ofNat (ofNat_xss 0xF x 0x55)
  · exact decode_ofNat (ofNat_xss 0xF x 0x65)

/-- Settles O4: fields and masks as digits of the same number. -/
theorem fieldsAreMaskedThenShifted : Obligations.FieldsAreMaskedThenShifted := by
  intro w
  obtain ⟨hcls, hx, hy, hn, hkk, hnnn⟩ := fields_eq w
  have hclass : ((w >>> 12) &&& 0xF).toNat = w.toNat / 0x1000 % 16 := by
    rw [toNat_and_000F, BitVec.toNat_ushiftRight, Nat.shiftRight_eq_div_pow]
  have hshift8 : ((w &&& 0x0F00) >>> 8).toNat = w.toNat / 0x100 % 16 := by
    rw [BitVec.toNat_ushiftRight, toNat_and_0F00, Nat.shiftRight_eq_div_pow]; omega
  have hshift4 : ((w &&& 0x00F0) >>> 4).toNat = w.toNat / 0x10 % 16 := by
    rw [BitVec.toNat_ushiftRight, toNat_and_00F0, Nat.shiftRight_eq_div_pow]; omega
  rw [hclass, hshift8, hshift4, toNat_and_000F, toNat_and_00FF, toNat_and_0FFF]
  omega

/-- Settles O5: the decoder and the list agree by class and low byte, and the low bytes are counted class by class. -/
theorem unknownWordsAreExactlyTheListedOnes : Obligations.UnknownWordsAreExactlyTheListedOnes :=
  ⟨fun strict w => by rw [isUnknown_eq_listedAt, listedUnknown_iff_listedAt],
    countP_isUnknown false, countP_isUnknown true⟩

/-- Settles O6, by running the decoder. -/
theorem writtenWordsDecode : Obligations.WrittenWordsDecode := by
  unfold Obligations.WrittenWordsDecode
  decide

/-- Settles O7: taking in the inputs moves neither pc nor the bytes there, and the cycle decodes what the fetch read. -/
theorem stepRunsTheDecodedInstruction : Obligations.StepRunsTheDecodedInstruction := by
  intro s s' i hc hs hr hf hd
  obtain ⟨-, -, hpc, -, -, -, -, -, -, hrs, -, -, hcfg, -, hword⟩ := hs.fields
  rw [← hcfg, ← hpc] at hf
  rw [← hcfg, ← hword] at hd
  exact (step_eq_cycle hc hs).trans (State.cycle_of_decode (hrs.trans hr) hf hd)

end Sys2Proof.Machine
end

section
/-! PROOFS. What the instructions of classes 0x0 to 0x7 do, by the way each one ends: a jump, a skip, one register
written, or the stack pushed or popped. -/

namespace Sys2Proof.Machine

open Sys2Proof.Claims

variable {s e : State} {ks : List RegIx}

/-! ### Ends that write no more than pc and registers -/

theorem State.jump_keeps (s : State) (p : Word) : KeepsAllBut [.pc, .result] s (s.jump p) :=
  (KeepsAllBut.refl [] s).jump p

theorem State.skipIf_keeps (s : State) (c : Bool) : KeepsAllBut [.pc, .result] s (s.skipIf c) :=
  s.jump_keeps _

/-- A skip on a test is a skip on the condition the test decides. -/
theorem State.skipIf_skipped (s : State) {c : Bool} {P : Prop} (h : c = true ↔ P) : Skipped P s (s.skipIf c) :=
  ⟨fun hP => ⟨by simp [h.2 hP], rfl⟩, fun hP => ⟨by simp [mt h.1 hP], rfl⟩⟩

/-- Registers written, then the plain advance. -/
theorem wroteRegs_advance (hregs : KeepsRegsBut ks s e) (hparts : KeepsAllBut [.regs] s e) :
    WroteRegs ks s e.advance :=
  ⟨hregs, (hparts.jump _).mono (by simp)⟩

theorem State.setReg_advance_wroteRegs (s : State) (x : RegIx) (b : Byte) : WroteRegs [x] s (s.setReg x b).advance :=
  wroteRegs_advance (s.setReg_keepsRegs x b) (s.setReg_keeps x b)

/-! ### Jump targets as numbers -/

@[simp] theorem toNat_zextAddr (a : Addr) : (zextAddr a).toNat = a.toNat :=
  BitVec.toNat_setWidth_of_le (by decide)

@[simp] theorem toNat_zextByte (b : Byte) : (zextByte b).toNat = b.toNat :=
  BitVec.toNat_setWidth_of_le (by decide)

/-- "The sum is exact" (42_class9_to_C R142): a byte and a 12-bit address do not overflow a word. -/
theorem toNat_zextByte_add_zextAddr (b : Byte) (a : Addr) : (zextByte b + zextAddr a).toNat = b.toNat + a.toNat := by
  rw [BitVec.toNat_add_of_lt, toNat_zextByte, toNat_zextAddr]
  have := b.isLt
  have := a.isLt
  simp only [toNat_zextByte, toNat_zextAddr]
  omega

/-! ### The stack -/

theorem State.push_of_lt (h : s.sp.val < 16) (w : Word) :
    s.push w = some { s with stack := s.stack.set s.sp.val w, sp := ⟨s.sp.val + 1, by omega⟩ } := dif_pos h

theorem State.push_of_full (h : s.sp.val = 16) (w : Word) : s.push w = none := dif_neg (by omega)

theorem State.pop_of_pos (h : 0 < s.sp.val) :
    s.pop = some (s.stack[s.sp.val - 1], { s with sp := ⟨s.sp.val - 1, by omega⟩ }) := dif_pos h

theorem State.pop_of_empty (h : s.sp.val = 0) : s.pop = none := dif_neg (by omega)

end Sys2Proof.Machine
end

section
/-! PROOFS. The statements on classes 0x0 to 0x7 (40_class0_to_7 R100 to R109; 42_class9_to_C R140, R142). -/

namespace Sys2Proof.Machine

open Sys2Proof.Claims

/-- Settles O30: SP alone decides whether the pop succeeds. -/
theorem retPopsTheReturnAddress : Obligations.RetPopsTheReturnAddress := by
  intro s
  constructor
  · intro h
    have hpop := State.pop_of_pos h
    exact ⟨_, exec_ret_of_pop hpop, ⟨rfl, rfl⟩, rfl, ((State.pop_keeps hpop).jump _).mono (by simp)⟩
  · intro h
    exact ⟨_, exec_ret_of_empty (State.pop_of_empty h), s.raise_haltsWith .stackUnderflow _ 0⟩

/-- Settles O33: SP alone decides whether the push succeeds. -/
theorem callPushesTheReturnAddress : Obligations.CallPushesTheReturnAddress := by
  intro nnn s
  constructor
  · intro h
    have hpush := State.push_of_lt h (s.pc + 2)
    refine ⟨_, exec_call_of_push hpush, toNat_zextAddr nnn, rfl, rfl, fun k => ?_,
      ((State.push_keeps hpush).jump _).mono (by simp)⟩
    simp [Vector.getElem_set, eq_comm]
  · intro h
    exact ⟨_, encode (.call nnn), exec_call_of_full (State.push_of_full h _), toNat_wordNNN (by decide) nnn,
      s.raise_haltsWith .stackOverflow _ 0⟩

/-- Settles O34: the slot RET reads, below SP, is the one that CALL wrote. -/
theorem retAfterCallReturns : Obligations.RetAfterCallReturns := by
  intro nnn s t u hroom hcall hsp hstack
  obtain ⟨t', hcall', -, -, hsp', hslots, -⟩ := (callPushesTheReturnAddress nnn s).1 hroom
  obtain rfl : t' = t := by simpa [hcall'] using hcall
  have hslot : u.sp.val - 1 = s.sp.val := by rw [hsp, hsp', Nat.add_sub_cancel]
  obtain ⟨r, hret, ⟨hpc, -⟩, hspr, -⟩ := (retPopsTheReturnAddress u).1 (by omega)
  refine ⟨r, hret, ?_, Fin.ext (hspr.trans hslot)⟩
  simpa [hpc, hslot, hstack] using hslots ⟨s.sp.val, hroom⟩

/-- Settles O29: the blank surface has the configured shape and no pixel on. -/
theorem clsClearsTheDisplay : Obligations.ClsClearsTheDisplay := fun s =>
  ⟨_, rfl, Display.pixel_blank, Display.wf_blank, ⟨rfl, rfl⟩, ((s.setDisp_keeps _).jump _).mono (by simp)⟩

/-- Settles O31: SYS is the plain advance. -/
theorem sysOnlyAdvances : Obligations.SysOnlyAdvances := fun _ s => ⟨_, rfl, ⟨rfl, rfl⟩, s.jump_keeps _⟩

/-- Settles O32: both are jumps, and the targets are exact. -/
theorem jumpsSetThePc : Obligations.JumpsSetThePc := fun nnn s =>
  ⟨⟨_, rfl, toNat_zextAddr nnn, rfl, s.jump_keeps _⟩,
    _, rfl, toNat_zextByte_add_zextAddr (s.reg 0) nnn, rfl, s.jump_keeps _⟩

/-- Settles O35: each test decides its condition. -/
theorem immediateSkips : Obligations.ImmediateSkips := fun _ _ s =>
  ⟨⟨_, rfl, s.skipIf_skipped beq_iff_eq, s.skipIf_keeps _⟩, _, rfl, s.skipIf_skipped bne_iff_ne, s.skipIf_keeps _⟩

/-- Settles O36: each test decides its condition, and a register equals itself. -/
theorem registerSkips : Obligations.RegisterSkips := by
  intro x y s
  have hse : Skipped (s.reg x = s.reg y) s (s.skipIf (s.reg x == s.reg y)) := s.skipIf_skipped beq_iff_eq
  have hsne : Skipped (s.reg x ≠ s.reg y) s (s.skipIf (s.reg x != s.reg y)) := s.skipIf_skipped bne_iff_ne
  refine ⟨⟨_, rfl, hse, s.skipIf_keeps _, fun hxy => ?_⟩, _, rfl, hsne, s.skipIf_keeps _, fun hxy => ?_⟩
  · exact (hse.1 (congrArg s.reg hxy)).1
  · exact (hsne.2 (not_not_intro (congrArg s.reg hxy))).1

/-- Settles O37: one register write, then the plain advance; the sum of two bytes wraps at 256. -/
theorem immediateLoadAndAdd : Obligations.ImmediateLoadAndAdd := fun x kk s =>
  ⟨⟨_, rfl, s.reg_setReg_self x kk, ⟨rfl, rfl⟩, s.setReg_advance_wroteRegs x _⟩,
    _, rfl, (congrArg BitVec.toNat (s.reg_setReg_self x _)).trans (BitVec.toNat_add _ _), ⟨rfl, rfl⟩,
    s.setReg_advance_wroteRegs x _⟩

end Sys2Proof.Machine
end

section
/-! PROOFS. The arithmetic of class 0x8 as numbers, and the two orders in which its flag and its result are written
(41_alu R124 to R130). -/

namespace Sys2Proof.Machine

open Sys2Proof.Claims

/-! ### Flags and results as numbers -/

theorem toNat_flagByte_decide (P : Prop) [Decidable P] : (flagByte (decide P)).toNat = if P then 1 else 0 := by
  by_cases h : P <;> simp [flagByte, h]

theorem toNat_carryFlag (a b : Byte) : (carryFlag a b).toNat = if 255 < a.toNat + b.toNat then 1 else 0 :=
  toNat_flagByte_decide _

theorem toNat_noBorrowFlag (a b : Byte) : (noBorrowFlag a b).toNat = if b.toNat ≤ a.toNat then 1 else 0 :=
  toNat_flagByte_decide _

theorem toNat_strictNoBorrowFlag (b a : Byte) :
    (strictNoBorrowFlag b a).toNat = if a.toNat < b.toNat then 1 else 0 :=
  toNat_flagByte_decide _

theorem toNat_lowBitFlag (a : Byte) : (lowBitFlag a).toNat = a.toNat % 2 := by
  simp [lowBitFlag]

/-- The low bit of what is left after seven shifts. -/
theorem toNat_highBitFlag (a : Byte) : (highBitFlag a).toNat = a.toNat / 128 := by
  have hlow : (highBitFlag a).toNat = (a >>> 7).toNat % 2 := toNat_lowBitFlag _
  rw [hlow, BitVec.toNat_ushiftRight, Nat.shiftRight_eq_div_pow]
  have := a.isLt
  omega

/-- The difference modulo 256, with the borrow added before the subtraction. -/
theorem toNat_sub_byte (a b : Byte) : (a - b).toNat = (a.toNat + 256 - b.toNat) % 256 := by
  rw [BitVec.toNat_sub]
  have := b.isLt
  omega

theorem toNat_ushiftRight_one_byte (a : Byte) : (a >>> 1).toNat = a.toNat / 2 := by
  rw [BitVec.toNat_ushiftRight, Nat.shiftRight_eq_div_pow, pow_one]

theorem toNat_shiftLeft_one_byte (a : Byte) : (a <<< 1).toNat = a.toNat * 2 % 256 := by
  rw [BitVec.toNat_shiftLeft, Nat.shiftLeft_eq, pow_one]

/-- A flag shifted left loses nothing: bit 7 of a byte, doubled, is below 256. -/
theorem toNat_highBitFlag_shiftLeft (a : Byte) : (highBitFlag a <<< 1).toNat = a.toNat / 128 * 2 := by
  rw [toNat_shiftLeft_one_byte, toNat_highBitFlag]
  have := a.isLt
  omega

/-! ### The two writes (41_alu R130) -/

variable (s : State) (x : RegIx) (value flag : Byte) (result : State → Byte)

theorem State.reg_resultThenFlag_vf : (s.resultThenFlag x value flag).reg vf = flag := by
  simp [State.reg_resultThenFlag]

theorem State.reg_resultThenFlag_of_ne {x : RegIx} (hx : x ≠ vf) : (s.resultThenFlag x value flag).reg x = value := by
  simp [State.reg_resultThenFlag, hx]

theorem State.reg_flagThenResult_self :
    (s.flagThenResult x flag result).reg x = result (operandState s (s.setReg vf flag)) := by
  simp [State.reg_flagThenResult]

theorem State.reg_flagThenResult_vf {x : RegIx} (hx : x ≠ vf) : (s.flagThenResult x flag result).reg vf = flag := by
  simp [State.reg_flagThenResult, hx.symm]

/-- Under either order the second write reads every register but VF as it was before. -/
theorem State.reg_operandState_of_ne {k : RegIx} (hk : k ≠ vf) :
    (operandState s (s.setReg vf flag)).reg k = s.reg k := by
  cases h : s.cfg.operandOrder with
  | pre => rw [operandState_pre h]
  | seq => rw [operandState_seq h, State.reg_setReg_of_ne _ hk.symm]

/-- The second write reads VF as it was before under PRE, and as the flag just written under SEQ. -/
theorem State.reg_operandState_vf :
    (operandState s (s.setReg vf flag)).reg vf = if s.cfg.operandOrder = .pre then s.reg vf else flag := by
  cases h : s.cfg.operandOrder with
  | pre => rw [operandState_pre h, if_pos rfl]
  | seq => rw [operandState_seq h, State.reg_setReg_self, if_neg (by decide)]

theorem State.resultThenFlag_advance_wroteRegs : WroteRegs [x, vf] s (s.resultThenFlag x value flag).advance :=
  wroteRegs_advance (s.resultThenFlag_keepsRegs x value flag) (s.resultThenFlag_keeps x value flag)

theorem State.flagThenResult_advance_wroteRegs : WroteRegs [x, vf] s (s.flagThenResult x flag result).advance :=
  wroteRegs_advance (s.flagThenResult_keepsRegs x flag result) (s.flagThenResult_keeps x flag result)

end Sys2Proof.Machine
end

section
/-! PROOFS. The statements on class 0x8 (41_alu R120 to R131). -/

namespace Sys2Proof.Machine

open Sys2Proof.Claims

/-- Settles O40: the flag is written last, so it stands in VF even where VF is the destination. -/
theorem addSetsTheCarry : Obligations.AddSetsTheCarry := by
  intro x y s
  refine ⟨_, rfl, fun hx => ?_, ?_, ⟨rfl, rfl⟩, s.resultThenFlag_advance_wroteRegs x _ _⟩
  · rw [State.reg_advance, State.reg_resultThenFlag_of_ne _ _ _ hx, BitVec.toNat_add]
  · rw [State.reg_advance, State.reg_resultThenFlag_vf, toNat_carryFlag]

/-- Settles O41: as for ADD, the flag is written last. -/
theorem subSetsNoBorrow : Obligations.SubSetsNoBorrow := by
  intro x y s
  refine ⟨_, rfl, fun hx => ?_, ?_, ⟨rfl, rfl⟩, s.resultThenFlag_advance_wroteRegs x _ _⟩
  · rw [State.reg_advance, State.reg_resultThenFlag_of_ne _ _ _ hx, toNat_sub_byte]
  · rw [State.reg_advance, State.reg_resultThenFlag_vf, toNat_noBorrowFlag]

/-- Settles O42: only a shift of VF itself sees the flag, and a low bit halved is 0. -/
theorem shrShiftsOutTheLowBit : Obligations.ShrShiftsOutTheLowBit := by
  intro x y s
  refine ⟨_, rfl, fun hx => ⟨?_, ?_⟩, ?_, ⟨rfl, rfl⟩, s.flagThenResult_advance_wroteRegs x _ _⟩
  · rw [State.reg_advance, State.reg_flagThenResult_self, State.reg_operandState_of_ne _ _ hx,
      toNat_ushiftRight_one_byte]
  · rw [State.reg_advance, State.reg_flagThenResult_vf _ _ _ hx, toNat_lowBitFlag]
  · rintro rfl
    rw [State.reg_advance, State.reg_flagThenResult_self, State.reg_operandState_vf, toNat_ushiftRight_one_byte]
    split
    · rfl
    · rw [toNat_lowBitFlag]; omega

/-- Settles O44: only a shift of VF itself sees the flag. -/
theorem shlShiftsOutTheHighBit : Obligations.ShlShiftsOutTheHighBit := by
  intro x y s
  refine ⟨_, rfl, fun hx => ⟨?_, ?_⟩, ?_, ⟨rfl, rfl⟩, s.flagThenResult_advance_wroteRegs x _ _⟩
  · rw [State.reg_advance, State.reg_flagThenResult_self, State.reg_operandState_of_ne _ _ hx,
      toNat_shiftLeft_one_byte]
  · rw [State.reg_advance, State.reg_flagThenResult_vf _ _ _ hx, toNat_highBitFlag]
  · rintro rfl
    rw [State.reg_advance, State.reg_flagThenResult_self, State.reg_operandState_vf]
    split
    · exact toNat_shiftLeft_one_byte _
    · exact toNat_highBitFlag_shiftLeft _

/-- Settles O43: V[x] ends as the difference of the two operands that the second write reads, and each corner says
which of them is the flag. -/
theorem subnSetsTheStrictFlag : Obligations.SubnSetsTheStrictFlag := by
  intro x y s
  refine ⟨_, (strictNoBorrowFlag (s.reg y) (s.reg x)).toNat, rfl, toNat_strictNoBorrowFlag _ _, fun hx => ?_,
    fun hpre => ?_, fun hseq => ?_, ⟨rfl, rfl⟩, s.flagThenResult_advance_wroteRegs x _ _⟩
  · rw [State.reg_advance, State.reg_flagThenResult_vf _ _ _ hx]
  · rw [State.reg_advance, State.reg_flagThenResult_self, operandState_pre hpre, toNat_sub_byte]
  · have hvf := s.reg_operandState_vf (strictNoBorrowFlag (s.reg y) (s.reg x))
    rw [if_neg (by simp [hseq])] at hvf
    rw [State.reg_advance, State.reg_advance]
    refine ⟨fun hx hy => ?_, fun hx hy => ?_, fun hx hy => ?_, fun hx hy => ?_⟩
    · rw [State.reg_flagThenResult_self, State.reg_operandState_of_ne _ _ hx, State.reg_operandState_of_ne _ _ hy,
        toNat_sub_byte]
    · subst hy
      rw [State.reg_flagThenResult_self, State.reg_operandState_of_ne _ _ hx, hvf, toNat_sub_byte]
    · subst hx
      rw [State.reg_flagThenResult_self, State.reg_operandState_of_ne _ _ hy, hvf, toNat_sub_byte]
    · subst hx hy
      rw [State.reg_flagThenResult_self, BitVec.sub_self, BitVec.toNat_zero]

/-- Settles O38: one register write, then the plain advance. -/
theorem copyWritesVx : Obligations.CopyWritesVx := fun x y s =>
  ⟨_, rfl, s.reg_setReg_self x (s.reg y), ⟨rfl, rfl⟩, s.setReg_advance_wroteRegs x _⟩

/-- Settles O39: one register write each, whose byte is the bitwise operation. -/
theorem logicWritesVxOnly : Obligations.LogicWritesVxOnly := by
  intro x y s
  refine ⟨⟨_, rfl, fun k => ?_, ⟨rfl, rfl⟩, s.setReg_advance_wroteRegs x _⟩,
    ⟨_, rfl, fun k => ?_, ⟨rfl, rfl⟩, s.setReg_advance_wroteRegs x _⟩,
    _, rfl, fun k => ?_, ⟨rfl, rfl⟩, s.setReg_advance_wroteRegs x _⟩
  · rw [State.reg_advance, State.reg_setReg_self, BitVec.getLsbD_or]
  · rw [State.reg_advance, State.reg_setReg_self, BitVec.getLsbD_and]
  · rw [State.reg_advance, State.reg_setReg_self, BitVec.getLsbD_xor]

end Sys2Proof.Machine
end

section
/-! PROOFS. The statements on writes to I and on RND (42_class9_to_C R141, R143; 45_misc R185). -/

namespace Sys2Proof.Machine

open Sys2Proof.Claims

/-- I written, then the plain advance. -/
theorem State.setI_advance_keeps (s : State) (w : Word) : KeepsAllBut [.i, .pc, .result] s (s.setI w).advance :=
  ((s.setI_keeps w).jump _).mono (by simp)

/-- Settles O45: each is one write to I; the 12-bit address loses nothing, and the sum wraps at 16 bits. -/
theorem addressRegisterWrites : Obligations.AddressRegisterWrites := by
  intro nnn x s
  refine ⟨⟨_, rfl, ?_, ⟨rfl, rfl⟩, s.setI_advance_keeps _⟩, _, rfl, ?_, ⟨rfl, rfl⟩, s.setI_advance_keeps _⟩
  · rw [State.advance_i, State.setI_i, toNat_zextAddr]
  · rw [State.advance_i, State.setI_i, BitVec.toNat_add, toNat_zextByte]

/-- Settles O46: one register write, whose byte is the random byte under the mask. -/
theorem rndIsMaskedByTheImmediate : Obligations.RndIsMaskedByTheImmediate := by
  intro x kk s
  refine ⟨_, rfl, fun k => ?_, fun hkk => ?_, ⟨rfl, rfl⟩, s.setReg_advance_wroteRegs x _⟩
  · rw [State.reg_advance, State.reg_setReg_self, BitVec.getLsbD_and]
  · rw [State.reg_advance, State.reg_setReg_self, hkk]
    exact BitVec.and_zero

end Sys2Proof.Machine
end

section
/-! PROOFS. The pixels under a sprite's set bits, exactly, and a second blit of pixels that are all distinct
(43_draw R152, R153, R158). -/

namespace Sys2Proof.Machine

variable {c : Config}

theorem mem_rowPixels_iff {x0 y : Nat} {bits : Byte} {p : Nat × Nat} : p ∈ rowPixels c x0 y bits ↔
    ∃ j < 8, bits.getLsbD (7 - j) = true ∧ p = ((x0 + j) % c.displayW, y % c.displayH) := by
  refine ⟨mem_rowPixels, ?_⟩
  rintro ⟨j, hj, hbit, rfl⟩
  exact List.mem_filterMap.2 ⟨j, List.mem_range.2 hj, if_pos hbit⟩

theorem mem_spritePixels_iff {x0 y0 : Nat} {rows : List Byte} {p : Nat × Nat} : p ∈ spritePixels c x0 y0 rows ↔
    ∃ i, ∃ h : i < rows.length, ∃ j < 8, rows[i].getLsbD (7 - j) = true ∧
      p = ((x0 + j) % c.displayW, (y0 + i) % c.displayH) := by
  induction rows generalizing y0 with
  | nil => simp [spritePixels]
  | cons bits rows ih =>
    rw [spritePixels, List.mem_append, mem_rowPixels_iff, ih]
    constructor
    · rintro (onTop | ⟨i, hi, below⟩)
      · exact ⟨0, Nat.succ_pos _, onTop⟩
      · refine ⟨i + 1, Nat.succ_lt_succ hi, ?_⟩
        rwa [Nat.add_assoc, Nat.add_comm 1] at below
    · rintro ⟨_ | i, hi, hit⟩
      · exact .inl hit
      · refine .inr ⟨i, Nat.lt_of_succ_lt_succ hi, ?_⟩
        rwa [Nat.add_assoc, Nat.add_comm 1]

/-- The first blit inverts each of the pixels, so the second finds on exactly those that were off. -/
theorem blit_blit_hit {px : List (Nat × Nat)} {d : Display} (hd : Display.wf c d) (hp : OnSurface c px)
    (hnodup : px.Nodup) : (blit (blit d px).1 px).2 = true ↔ ∃ p ∈ px, d.pixel p.1 p.2 = false := by
  rw [blit_hit (Display.wf_blit hd px) hp]
  refine exists_congr fun p => and_congr_right fun hmem => ?_
  have once : px.count p = 1 := List.count_eq_one_of_mem hnodup hmem
  have inverted : (blit d px).1.pixel p.1 p.2 = !d.pixel p.1 p.2 := by
    simp [Display.pixel_blit hd hp, once]
  simp [inverted, once]

end Sys2Proof.Machine
end

section
/-! PROOFS. What DRAW does (43_draw R150 to R155): the check, the pixels it inverts, and the collision flag. -/

namespace Sys2Proof.Machine

open Sys2Proof.Claims

variable {s s2 : State} {x y x2 y2 : RegIx} {n : Fin 16}

/-! ### The check of the row addresses -/

theorem exec_drw_of_readable (h : Readable s n.val) : exec (.drw x y n) s = .next (s.drawn x y n) := by
  refine congrArg _ (s.checked_ok _ _ fun a ha => ?_)
  obtain ⟨k, hk, rfl⟩ := State.mem_addresses.1 ha
  exact decide_eq_true (h k hk)

theorem exec_drw_of_beyond {k : Nat} (hk : k < n.val) (hbefore : ∀ j < k, s.i.toNat + j < 0x1000)
    (hfail : ¬ s.i.toNat + k < 0x1000) :
    exec (.drw x y n) s =
      .next (s.raise .addressOutOfRange (encode (.drw x y n)) (BitVec.ofNat 16 (s.i.toNat + k))) :=
  congrArg _ (s.checked_fail _ _ hk (fun j hj => decide_eq_true (hbefore j hj)) (decide_eq_false hfail))

/-- The lowest failing address is I itself or one past an address inside memory, so it fits SR.addr (log 8). -/
theorem lowestFailing_lt {good : Nat → Prop} {m a : Nat} (hgood : ∀ b, good b → b < 0x1000)
    (h : LowestFailing good s m a) : a < 0x10000 := by
  obtain ⟨k, -, rfl, -, hbefore⟩ := h
  cases k with
  | zero => exact s.i.isLt
  | succ k =>
    have := hgood _ (hbefore k k.lt_succ_self)
    omega

/-! ### The pixels a DRAW inverts -/

/-- The pixels under the set bits of the sprite that DRAW Vx,Vy,n reads, in the order in which it inverts them. -/
def State.drawPixels (s : State) (x y : RegIx) (n : Fin 16) : List (Nat × Nat) :=
  spritePixels s.cfg (s.spriteCol x) (s.spriteRow y) (s.readBytes s.i.toNat n.val)

theorem State.drawn_disp : (s.drawn x y n).disp = (blit s.disp (s.drawPixels x y n)).1 := rfl

theorem State.reg_drawn_vf : (s.drawn x y n).reg vf = collisionFlag (blit s.disp (s.drawPixels x y n)).2 :=
  State.reg_setReg_self _ vf _

theorem State.drawn_keepsRegs : KeepsRegsBut [vf] s (s.drawn x y n) := State.setReg_keepsRegs _ vf _

theorem State.drawn_keeps : KeepsAllBut [.regs, .disp, .pc, .result] s (s.drawn x y n) :=
  ((s.setDisp_setReg_keeps _ vf _).jump _).mono (by simp)

theorem State.drawPixels_zero : s.drawPixels x y 0 = [] := rfl

/-- The pixels depend on the parameters, the origin and the sprite's bytes only. -/
theorem State.drawPixels_congr (hcfg : s2.cfg = s.cfg) (hcol : s2.spriteCol x2 = s.spriteCol x)
    (hrow : s2.spriteRow y2 = s.spriteRow y)
    (hbytes : ∀ i < n.val, s2.readByte (s2.i.toNat + i) = s.readByte (s.i.toNat + i)) :
    s2.drawPixels x2 y2 n = s.drawPixels x y n := by
  have hrows : s2.readBytes s2.i.toNat n.val = s.readBytes s.i.toNat n.val :=
    List.map_congr_left fun i hi => hbytes i (List.mem_range.1 hi)
  rw [State.drawPixels, State.drawPixels, hcfg, hcol, hrow, hrows]

theorem State.onSurface_drawPixels (h : s.cfg.wf = true) : OnSurface s.cfg (s.drawPixels x y n) := by
  obtain ⟨hW, hH, -⟩ := (Config.wf_iff _).1 h
  exact onSurface_spritePixels hW hH _ _ _

theorem State.nodup_drawPixels (hW : 8 ≤ s.cfg.displayW) (hH : n.val ≤ s.cfg.displayH) :
    (s.drawPixels x y n).Nodup :=
  nodup_spritePixels hW _ _ _ (by rwa [State.length_readBytes])

theorem State.count_drawPixels (col row : Nat) :
    (s.drawPixels x y n).count (col, row) = spriteHits s x y n.val col row := by
  rw [State.drawPixels, count_spritePixels, State.length_readBytes, spriteHits]
  refine congrArg List.sum (List.map_congr_left fun i hi => ?_)
  have hrow : (s.readBytes s.i.toNat n.val).getD i 0 = s.readByte (s.i.toNat + i) := by
    rw [List.getD_eq_getElem _ _ (by simpa using hi), State.getElem_readBytes]
  rw [hrow]
  rfl

theorem State.mem_drawPixels_iff {p : Nat × Nat} : p ∈ s.drawPixels x y n ↔
    ∃ i < n.val, ∃ j < 8, spriteBit s i j = true ∧
      p = ((s.spriteCol x + j) % s.cfg.displayW, (s.spriteRow y + i) % s.cfg.displayH) := by
  simp [State.drawPixels, mem_spritePixels_iff, spriteBit]

/-! ### The collision flag -/

theorem collisionFlag_eq_one_iff {hit : Bool} : collisionFlag hit = 1 ↔ hit = true := by
  cases hit <;> decide

/-- Some pixel goes from on to off: one of the surface is hit, and it was on or is hit twice. -/
theorem State.drawPixels_hit_iff (hcfg : s.cfg.wf = true) (hd : Display.wf s.cfg s.disp) :
    (blit s.disp (s.drawPixels x y n)).2 = true ↔ ∃ col < s.cfg.displayW, ∃ row < s.cfg.displayH,
      0 < spriteHits s x y n.val col row ∧
        (s.disp.pixel col row = true ∨ 1 < spriteHits s x y n.val col row) := by
  have hp : OnSurface s.cfg (s.drawPixels x y n) := State.onSurface_drawPixels hcfg
  simp only [blit_hit hd hp, ← State.count_drawPixels, List.count_pos_iff]
  constructor
  · rintro ⟨⟨col, row⟩, hmem, h⟩
    obtain ⟨hcol, hrow⟩ := hp _ hmem
    exact ⟨col, hcol, row, hrow, hmem, h⟩
  · rintro ⟨col, -, row, -, hmem, h⟩
    exact ⟨(col, row), hmem, h⟩

end Sys2Proof.Machine
end

section
/-! PROOFS. The statements on class 0xD (43_draw R150 to R158). -/

namespace Sys2Proof.Machine

open Sys2Proof.Claims

/-- Settles O47: DRAW blits the list of pixels under the set bits, which names a pixel as often as it is hit. -/
theorem drawInvertsThePixelsItHits : Obligations.DrawInvertsThePixelsItHits := by
  intro x y n s hcfg hd hread
  have hflag := State.drawPixels_hit_iff (x := x) (y := y) (n := n) hcfg hd
  refine ⟨_, exec_drw_of_readable hread, fun col _ row _ => ?_, fun hit => ?_, fun clear => ?_,
    Display.wf_blit hd _, ⟨rfl, rfl⟩, State.drawn_keepsRegs, State.drawn_keeps⟩
  · rw [State.drawn_disp, Display.pixel_blit hd (State.onSurface_drawPixels hcfg), State.count_drawPixels]
  · rw [State.reg_drawn_vf, hflag.2 hit]
    rfl
  · rw [State.reg_drawn_vf, Bool.eq_false_iff.2 (mt hflag.1 clear)]
    rfl

/-- Settles O48: the first row beyond memory is the one reported; no row is no address to check and no pixel. -/
theorem drawChecksItsRows : Obligations.DrawChecksItsRows := by
  intro x y n s
  constructor
  · intro a hlowest
    have hfits : a < 0x10000 := lowestFailing_lt (fun _ => id) hlowest
    obtain ⟨k, hk, rfl, hfail, hbefore⟩ := hlowest
    exact ⟨_, _, _, exec_drw_of_beyond hk hbefore hfail, (BitVec.toNat_ofNat _ 16).trans (Nat.mod_eq_of_lt hfits),
      toNat_wordXYN (by decide) x y n, s.raise_haltsWith .addressOutOfRange _ _⟩
  · rintro rfl
    refine ⟨_, exec_drw_of_readable (nofun : Readable s 0), ?_, ?_, rfl, rfl⟩
    · rw [State.drawn_disp, State.drawPixels_zero]
      rfl
    · rw [State.reg_drawn_vf, State.drawPixels_zero]
      rfl

/-- Settles O49: both DRAWs blit the same list of pixels, and a list blitted twice restores the display. -/
theorem drawTwiceRestoresTheDisplay : Obligations.DrawTwiceRestoresTheDisplay := by
  intro x y x2 y2 n s t s2 u hread hread2 hfirst hcfg hdisp hcol hrow hbytes hsecond
  cases (exec_drw_of_readable hread).symm.trans hfirst
  cases (exec_drw_of_readable hread2).symm.trans hsecond
  have hpixels : s2.drawPixels x2 y2 n = s.drawPixels x y n :=
    State.drawPixels_congr hcfg (by rwa [State.spriteCol, hcfg]) (by rwa [State.spriteRow, hcfg]) hbytes
  rw [State.drawn_disp] at hdisp
  rw [State.drawn_disp, State.reg_drawn_vf, hpixels, hdisp]
  refine ⟨blit_blit_display _ _, fun hd hW hH hwf => ?_⟩
  rw [collisionFlag_eq_one_iff, blit_blit_hit hd (State.onSurface_drawPixels hwf) (State.nodup_drawPixels hW hH)]
  constructor
  · rintro ⟨p, hmem, hoff⟩
    obtain ⟨i, hi, j, hj, hbit, rfl⟩ := State.mem_drawPixels_iff.1 hmem
    exact ⟨i, hi, j, hj, hbit, hoff⟩
  · rintro ⟨i, hi, j, hj, hbit, hoff⟩
    exact ⟨_, State.mem_drawPixels_iff.2 ⟨i, hi, j, hj, hbit, rfl⟩, hoff⟩

end Sys2Proof.Machine
end

section
/-! PROOFS. The key that a register names, and what a poll does with the snapshot (44_keys R172 to R174). -/

namespace Sys2Proof.Machine

open Sys2Proof.Claims

variable {s : State} {r : RegIx} {k : Fin 16}

/-! ### Indices named by a value -/

/-- A value that names an index resolves to it (44_keys R172; 45_misc R186). -/
theorem resolveIndex_of_names {p : IndexPolicy} {b : Byte} {n : Nat} (h : Names p b n) :
    ∃ d : Fin 16, d.val = n ∧ resolveIndex p b = some d := by
  obtain ⟨hle, rfl⟩ | ⟨hgt, rfl, rfl⟩ := h
  · exact ⟨_, rfl, resolveIndex_of_lt (by omega) p⟩
  · exact ⟨_, Nat.mod_mod _ 16, resolveIndex_lowNibble (by omega)⟩

/-- A value above 0xF resolves to no index under the `fault` policy (44_keys R172; 45_misc R186). -/
theorem resolveIndex_of_above {p : IndexPolicy} {b : Byte} (hb : 0xF < b.toNat) (hp : p = .fault) :
    resolveIndex p b = none :=
  hp ▸ resolveIndex_fault (by omega)

/-- The word of format XSS, its fixed nibbles first (30_encoding R78). -/
theorem toNat_wordXSS {c : Nat} (hc : c < 16) (x : RegIx) (ss : Byte) :
    (wordXKK c x ss).toNat = c * 0x1000 + ss.toNat + x.val * 0x100 :=
  (toNat_wordXKK hc x ss).trans (Nat.add_right_comm ..)

/-! ### The frame of a poll -/

theorem State.endWait_keeps (s : State) : KeepsAllBut [.rs] s s.endWait := by
  intro p hp
  cases p <;> simp_all [Part.same]

theorem State.rememberKeys_answer_keeps (s : State) (o : OpResult) :
    KeepsAllBut [.kl, .result] s (s.rememberKeys.answer o) := by
  intro p hp
  cases p <;> simp_all [Part.same]

theorem State.endWait_setReg_advance_keeps (s : State) (r : RegIx) (b : Byte) :
    KeepsAllBut [.regs, .pc, .rs, .result] s (s.endWait.setReg r b).advance :=
  (s.endWait_keeps.mono (by simp)).trans (((State.setReg_keeps _ r b).jump _).mono (by simp))

/-! ### The outcome of a poll -/

theorem State.qualifies_iff : s.qualifies k = true ↔ Qualifies s.cfg.keyWaitMode s.kl s.keys k := by
  unfold State.qualifies Qualifies
  cases s.cfg.keyWaitMode <;> simp [State.keyPressed]

/-- The first qualifying key in ascending order is the lowest one, and it completes the wait (44_keys R173). -/
theorem State.keyPoll_of_lowest (hk : Qualifies s.cfg.keyWaitMode s.kl s.keys k)
    (hlow : ∀ j, Qualifies s.cfg.keyWaitMode s.kl s.keys j → k ≤ j) :
    s.keyPoll r = (s.endWait.setReg r (BitVec.ofNat 8 k.val)).advance := by
  have hfirst : (List.finRange 16).find? s.qualifies = some k := by
    rw [← Fin.find?_eq_find?_finRange, Fin.find?_eq_some_iff]
    refine ⟨State.qualifies_iff.2 hk, fun j hj => Bool.eq_false_iff.2 fun hq => ?_⟩
    exact absurd (hlow j (State.qualifies_iff.1 hq)) (not_le.2 hj)
  rw [State.keyPoll, hfirst]

/-- With no qualifying key the wait goes on (44_keys R173). -/
theorem State.keyPoll_of_none (h : ∀ k, ¬ Qualifies s.cfg.keyWaitMode s.kl s.keys k) :
    s.keyPoll r = s.rememberKeys.answer .waiting := by
  obtain e | ⟨k, hk, -⟩ := s.keyPoll_cases r
  · exact e
  · exact absurd (State.qualifies_iff.1 hk) (h k)

/-- Under good parameters, a STEP of a waiting machine is the poll of its snapshot (30_encoding R73). -/
theorem step_eq_keyPoll {s' : State} (hc : s.cfg.wf = true) (hs : TakesStep s s') (hr : s.rs = .awaitingKey r) :
    step s = .next (s'.keyPoll r) := by
  have hr' : s'.rs = .awaitingKey r := (hs.keeps .rs (by decide)).trans hr
  rw [step_eq_cycle hc hs, State.cycle, hr']

/-! ### Runs -/

/-- A run goes on from the state its first step answers. -/
theorem run_succ_of_step (M : Host.Core) {s t : M.State} (n : Nat) (h : M.step s = .next t) :
    M.run (n + 1) s = M.run n t := by
  rw [Host.Core.run, h]

end Sys2Proof.Machine
end

section
/-! PROOFS. The statements of 44_keys. -/

namespace Sys2Proof.Machine

open Sys2Proof.Claims

/-- Settles O12: the poll looks for the first qualifying key of the snapshot the STEP took in. -/
theorem pollTakesTheLowestQualifyingKey : Obligations.PollTakesTheLowestQualifyingKey := by
  intro s s' r hc hs hr
  have hstep := step_eq_keyPoll hc hs hr
  obtain ⟨-, -, hpc, -, -, -, -, -, -, -, hkl, -, hcfg, -, -⟩ := hs.fields
  rw [← hcfg, ← hkl, ← hpc]
  constructor
  · intro k hk hlow
    rw [State.keyPoll_of_lowest hk hlow] at hstep
    refine ⟨_, hstep, ?_, rfl, rfl, rfl, s'.endWait.setReg_keepsRegs r _, s'.endWait_setReg_advance_keeps r _⟩
    rw [State.reg_advance, State.reg_setReg_self, BitVec.toNat_ofNat]
    omega
  · intro hnone
    rw [State.keyPoll_of_none hnone] at hstep
    exact ⟨_, hstep, rfl, rfl, s'.rememberKeys_answer_keeps _⟩

/-- A STEP of an EDGE wait that presses only keys in KL leaves them in KL and the machine waiting (44_keys R174). -/
theorem step_keeps_wait_of_heldKeys {s : State} {r : RegIx} {keys : KeySet} {rnd : Byte} {rest : List HostOp}
    (hc : s.cfg.wf = true) (hmode : s.cfg.keyWaitMode = .edge) (hr : s.rs = .awaitingKey r)
    (hops : s.ops = .step keys rnd :: rest) (hheld : ∀ k, keys.getLsbD k = true → s.kl.getLsbD k = true) :
    ∃ t, step s = .next t ∧ t.kl = keys ∧ t.ops = rest ∧ KeepsAllBut [.kl, .inputs, .host, .result] s t := by
  have hs : TakesStep s _ := .inl ⟨keys, rnd, rest, hops, rfl⟩
  have hnone : ∀ k, ¬ Qualifies s.cfg.keyWaitMode s.kl keys k := by
    rintro k ⟨hpressed, hnew⟩
    exact Bool.false_ne_true ((hnew hmode).symm.trans (hheld k hpressed))
  obtain ⟨t, hstep, hkl, -, hkeeps⟩ := (pollTakesTheLowestQualifyingKey s _ r hc hs hr).2 hnone
  obtain ⟨ht, -, -⟩ := hkeeps .host (by decide)
  exact ⟨t, hstep, hkl, ht, (hs.keeps.mono (by simp)).trans (hkeeps.mono (by simp))⟩

/-- Settles O13, by induction on the snapshots: each STEP leaves its own in KL for the next one. -/
theorem heldKeysNeverEndAnEdgeWait : Obligations.HeldKeysNeverEndAnEdgeWait := by
  intro snapshots rnd rest
  induction snapshots with
  | nil =>
    intro s r _ _ hr _ _
    exact ⟨s, rfl, hr, .refl _ s⟩
  | cons keys snapshots ih =>
    intro s r hc hmode hr hheld hops
    obtain ⟨hfirst, hothers⟩ := hheld
    obtain ⟨e, hstep, rfl, hrest, hkeeps⟩ := step_keeps_wait_of_heldKeys hc hmode hr hops hfirst
    have hcfg : e.cfg = s.cfg := hkeeps .cfg (by decide)
    have hrs : e.rs = s.rs := hkeeps .rs (by decide)
    obtain ⟨t, hrun, ht, hkeeps'⟩ := ih e r (hcfg ▸ hc) (hcfg ▸ hmode) (hrs.trans hr) hothers hrest
    exact ⟨t, (run_succ_of_step Sys2Proof.core _ hstep).trans hrun, ht, hkeeps.trans hkeeps'⟩

/-- Settles O50: the value of V[x] names a key, whose bit of the snapshot is the test, or none. -/
theorem keySkipsReadTheSnapshot : Obligations.KeySkipsReadTheSnapshot := by
  intro x s
  constructor
  · intro k hnames
    obtain ⟨d, rfl, hkey⟩ : ∃ d : Fin 16, d.val = k ∧ s.keyIndex x = some d := resolveIndex_of_names hnames
    exact ⟨⟨_, exec_skp_of_key hkey, s.skipIf_skipped Iff.rfl, s.skipIf_keeps _⟩,
      _, exec_sknp_of_key hkey, s.skipIf_skipped (by simp [State.keyPressed]), s.skipIf_keeps _⟩
  · intro habove hfault
    have hnone : s.keyIndex x = none := resolveIndex_of_above habove hfault
    have hhalts (w : Word) := s.raise_haltsWith .operandOutOfRange w 0
    exact ⟨⟨_, _, exec_skp_of_noKey hnone, toNat_wordXSS (by decide) x 0x9E, hhalts _⟩,
      _, _, exec_sknp_of_noKey hnone, toNat_wordXSS (by decide) x 0xA1, hhalts _⟩

end Sys2Proof.Machine
end

section
/-! PROOFS. What the instructions of class 0xF do (45_misc R181, R186 to R189): the glyph's address, the block
an access through I stores or loads, the lowest address that fails it, and the key wait. -/

namespace Sys2Proof.Machine

open Sys2Proof.Claims

variable {s t : State} {x k : RegIx}

/-! ### The glyph -/

/-- Under good parameters the font ends below 0x200 (10_state R37), so a glyph's address loses nothing. -/
theorem toNat_glyphAddress {c : Config} (hc : c.wf = true) (d : Fin 16) :
    (glyphAddress c d).toNat = c.fontBase + 5 * d.val := by
  obtain ⟨-, -, hfont⟩ := (Config.wf_iff c).1 hc
  rw [glyphAddress, BitVec.toNat_ofNat]
  omega

/-! ### An access through I that fails -/

/-- The first address that fails the check is the one reported, and nothing of the effect is written (20_memory R59). -/
theorem exec_halts_of_lowestFailing {i : Instr} {n a m : Nat} {ok : Nat → Bool} {good : Nat → Prop} {w : Word}
    {effect : State} (answers : exec i s = .next (s.checked (s.addresses n) ok w effect))
    (hok : ∀ b, ok b = true ↔ good b) (hmem : ∀ b, good b → b < 0x1000) (hw : w.toNat = m)
    (h : LowestFailing good s n a) :
    ∃ t w addr, exec i s = .next t ∧ addr.toNat = a ∧ w.toNat = m ∧ HaltsWith 4 w addr s t := by
  have hfits : a < 0x10000 := lowestFailing_lt hmem h
  obtain ⟨k, hk, rfl, hfail, hbefore⟩ := h
  rw [s.checked_fail w effect hk (fun j hj => (hok _).2 (hbefore j hj)) (Bool.eq_false_iff.2 (mt (hok _).1 hfail))]
    at answers
  exact ⟨_, w, _, answers, (BitVec.toNat_ofNat _ 16).trans (Nat.mod_eq_of_lt hfits), hw,
    s.raise_haltsWith .addressOutOfRange w _⟩

/-! ### A block stored -/

/-- A block stored through I at good addresses: every other byte and every other part of the state stays. -/
theorem State.storeBytes_advance_frame {n : Nat} {bs : List Byte} (hm : Memory.wf s.cfg s.mem)
    (h : Storable s (n + 1)) (hlen : bs.length = n + 1) :
    KeepsBytesBut s.i.toNat (n + 1) s (s.storeBytes s.i.toNat bs).advance ∧
      Memory.wf s.cfg (s.storeBytes s.i.toNat bs).advance.mem ∧ Advanced s (s.storeBytes s.i.toNat bs).advance ∧
      KeepsAllBut [.mem, .pc, .result] s (s.storeBytes s.i.toNat bs).advance := by
  have hfits : s.i.toNat + (n + 1) ≤ 0x1000 := State.storable_block_le (State.mayStore_addresses_of_storable h)
  rw [← hlen] at hfits ⊢
  refine ⟨fun b => s.readByte_storeBytes_outside bs _ b, s.wf_storeBytes bs _ hm hfits, ⟨?_, rfl⟩,
    ((s.storeBytes_keeps _ bs).jump _).mono (by simp)⟩
  rw [State.advance_pc, State.storeBytes_pc]

/-- BCD, with every address good, completes with the digits stored. -/
theorem exec_ldBVx_of_storable (h : Storable s 3) :
    exec (.ldBVx x) s = .next (s.storeBytes s.i.toNat (bcdDigits (s.reg x))).advance :=
  congrArg _ (s.checked_ok _ _ (State.mayStore_addresses_of_storable h))

/-- No digit is above 9, so each fits its byte. -/
theorem toNat_getElem_bcdDigits (b : Byte) :
    (bcdDigits b)[0].toNat = b.toNat / 100 ∧ (bcdDigits b)[1].toNat = b.toNat / 10 % 10 ∧
      (bcdDigits b)[2].toNat = b.toNat % 10 := by
  have := b.isLt
  simp only [bcdDigits, List.getElem_cons_zero, List.getElem_cons_succ, BitVec.toNat_ofNat]
  omega

/-- The hundreds stand at the block's address, then the tens and the ones (45_misc R187). -/
theorem State.readByte_storeBytes_bcdDigits (hm : Memory.wf s.cfg s.mem) (a : Nat) (b : Byte) :
    ((s.storeBytes a (bcdDigits b)).readByte a).toNat = b.toNat / 100 ∧
      ((s.storeBytes a (bcdDigits b)).readByte (a + 1)).toNat = b.toNat / 10 % 10 ∧
      ((s.storeBytes a (bcdDigits b)).readByte (a + 2)).toNat = b.toNat % 10 := by
  obtain ⟨hrising, -⟩ := hm
  have hdigit (k : Nat) (hk : k < (bcdDigits b).length) :
      (s.storeBytes a (bcdDigits b)).readByte (a + k) = (bcdDigits b)[k] :=
    s.readByte_storeBytes_inside (bcdDigits b) a k hrising hk
  have hfirst := hdigit 0 (by simp)
  rw [Nat.add_zero] at hfirst
  rw [hfirst, hdigit 1 (by simp), hdigit 2 (by simp)]
  exact toNat_getElem_bcdDigits b

/-! ### A block loaded -/

theorem State.mayRead_addresses_of_readable {n : Nat} (h : Readable s n) : ∀ a ∈ s.addresses n, mayRead a = true := by
  intro a ha
  obtain ⟨k, hk, rfl⟩ := State.mem_addresses.1 ha
  exact decide_eq_true (h k hk)

/-- LOAD V0..Vx, with every address good, completes with the block read into the registers. -/
theorem exec_ldVxMem_of_readable (h : Readable s (x.val + 1)) : exec (.ldVxMem x) s =
    .next (s.setRegs (writeRegs s.v 0 (s.readBytes s.i.toNat (x.val + 1)))).advance :=
  congrArg _ (s.checked_ok _ _ (State.mayRead_addresses_of_readable h))

/-- A register of the block takes the byte at its offset. -/
theorem State.reg_setRegs_writeRegs_readBytes (a : Nat) (hk : k ≤ x) :
    (s.setRegs (writeRegs s.v 0 (s.readBytes a (x.val + 1)))).reg k = s.readByte (a + k.val) := by
  have hlt : k.val < 0 + (s.readBytes a (x.val + 1)).length := by
    simpa [Nat.lt_succ_iff] using hk
  rw [State.reg, State.setRegs_v, writeRegs_getElem, dif_pos ⟨k.val.zero_le, hlt⟩, State.getElem_readBytes,
    Nat.sub_zero]

/-- After a LOAD V0..Vx inside memory, V[k] is the byte at I + k. -/
theorem reg_of_exec_ldVxMem (h : Readable s (x.val + 1)) (e : exec (.ldVxMem x) s = .next t) (hk : k ≤ x) :
    t.reg k = s.readByte (s.i.toNat + k.val) := by
  cases (exec_ldVxMem_of_readable h).symm.trans e
  exact State.reg_setRegs_writeRegs_readBytes _ hk

/-! ### The key wait begun -/

/-- A pc that was written but did not move is a part that stays. -/
theorem KeepsAllBut.of_same_pc {ps : List Part} (h : KeepsAllBut (.pc :: ps) s t) (hpc : t.pc = s.pc) :
    KeepsAllBut ps s t := by
  intro p hp
  by_cases hp' : p = .pc
  · subst hp'
    exact hpc
  · exact h p (by simp [hp', hp])

/-- KL and RS written, with pc left on the instruction (45_misc R181). -/
theorem State.wait_keeps (s : State) (r : RegIx) :
    KeepsAllBut [.kl, .rs, .result] s ((s.rememberKeys.beginWait r).jump s.pc) :=
  (((s.beginWait_rememberKeys_keeps r).jump s.pc).mono (by simp)).of_same_pc rfl

end Sys2Proof.Machine
end

section
/-! PROOFS. The statements on class 0xF (45_misc R180 to R189). -/

namespace Sys2Proof.Machine

open Sys2Proof.Claims

/-- Settles O53: V[x] names a digit, whose glyph is inside the font, or none. -/
theorem fontPointsAtTheGlyph : Obligations.FontPointsAtTheGlyph := by
  intro x s hc
  constructor
  · intro d hnames
    obtain ⟨d, rfl, hdigit⟩ : ∃ d' : Fin 16, d'.val = d ∧ s.fontDigit x = some d' := resolveIndex_of_names hnames
    exact ⟨_, exec_ldFVx_of_digit hdigit, toNat_glyphAddress hc d, ⟨rfl, rfl⟩, s.setI_advance_keeps _⟩
  · intro habove hfault
    have hnone : s.fontDigit x = none := resolveIndex_of_above habove hfault
    exact ⟨_, _, exec_ldFVx_of_noDigit hnone, toNat_wordXSS (by decide) x 0x29,
      s.raise_haltsWith .operandOutOfRange _ 0⟩

/-- Settles O54: the block stored is the three digits; the check reports the first address that fails it. -/
theorem bcdStoresTheDigits : Obligations.BcdStoresTheDigits := by
  intro x s hm
  constructor
  · intro hst
    obtain ⟨hhundreds, htens, hones⟩ := State.readByte_storeBytes_bcdDigits hm s.i.toNat (s.reg x)
    exact ⟨_, exec_ldBVx_of_storable hst, hhundreds, htens, hones, State.storeBytes_advance_frame hm hst rfl⟩
  · intro a hlowest
    exact exec_halts_of_lowestFailing rfl (mayStore_iff s.cfg) (fun _ => And.left)
      (toNat_wordXSS (by decide) x 0x33) hlowest

/-- Settles O55: the block stored is V0 to V[x]; the check reports the first address that fails it. -/
theorem blockStoreWritesV0ToVx : Obligations.BlockStoreWritesV0ToVx := by
  intro x s hm
  constructor
  · intro hst
    exact ⟨_, exec_ldMemVx_of_storable hst, fun k hk => State.readByte_storeBytes_regBlock hm _ hk,
      State.storeBytes_advance_frame hm hst (s.length_regBlock x)⟩
  · intro a hlowest
    exact exec_halts_of_lowestFailing rfl (mayStore_iff s.cfg) (fun _ => And.left)
      (toNat_wordXSS (by decide) x 0x55) hlowest

/-- Settles O56: the block read goes into V0 to V[x]; the check reports the first address that fails it. -/
theorem blockLoadReadsV0ToVx : Obligations.BlockLoadReadsV0ToVx := by
  intro x s
  constructor
  · intro hread
    have hhigher := s.setRegs_writeRegs_keepsRegs x (s.length_readBytes s.i.toNat (x.val + 1))
    refine ⟨_, exec_ldVxMem_of_readable hread, fun k hk => State.reg_setRegs_writeRegs_readBytes _ hk,
      fun k hk => hhigher k ?_, ⟨rfl, rfl⟩, ((s.setRegs_keeps _).jump _).mono (by simp)⟩
    simpa [writtenRegs] using hk
  · intro a hlowest
    exact exec_halts_of_lowestFailing rfl (fun _ => decide_eq_true_iff) (fun _ => id)
      (toNat_wordXSS (by decide) x 0x65) hlowest

/-- Settles O57: the LOAD reads the bytes that the STORE left at I, each of which is its register's. -/
theorem loadAfterStoreGivesTheRegistersBack : Obligations.LoadAfterStoreGivesTheRegistersBack := by
  intro x s t u r hm hst hstore hmem hcfg hi hload k hk
  have hread : Readable u (x.val + 1) := by
    rw [Readable, hi]
    exact fun j hj => (hst j hj).1
  calc r.reg k = u.readByte (u.i.toNat + k.val) := reg_of_exec_ldVxMem hread hload hk
    _ = t.readByte (s.i.toNat + k.val) := by rw [hi, State.readByte_congr hmem hcfg]
    _ = s.reg k := readByte_of_exec_ldMemVx hm hst hstore hk

/-- Settles O51: each is one write, of a register or a timer, then the plain advance. -/
theorem timerRegisterTransfers : Obligations.TimerRegisterTransfers := fun x s =>
  ⟨⟨_, rfl, s.reg_setReg_self x s.dt, ⟨rfl, rfl⟩, s.setReg_advance_wroteRegs x _⟩,
    ⟨_, rfl, rfl, bne_iff_ne, ⟨rfl, rfl⟩, ((s.setDt_keeps _).jump _).mono (by simp)⟩,
    _, rfl, rfl, bne_iff_ne, ⟨rfl, rfl⟩, ((s.setSt_keeps _).jump _).mono (by simp)⟩

/-- Settles O52: pc is set to where it stands. -/
theorem waitKeyBeginsTheWait : Obligations.WaitKeyBeginsTheWait := fun x s =>
  ⟨_, rfl, rfl, rfl, rfl, rfl, s.wait_keeps x⟩

end Sys2Proof.Machine
end

section
/-! PROOFS. The fatal failures (60_exceptions R204): an instruction that leaves a machine HALTED raised a failure, and
the word it recorded is the word it was fetched as. -/

namespace Sys2Proof.Machine

open Sys2Proof.Claims

variable {s t e : State} {i : Instr}

/-- A spelling is lost only with the low nibble of 5xyN and 9xyN (30_encoding R81), and neither instruction can fail:
the word of one that can is its own encoding. -/
theorem encode_of_decode {strict : Bool} {w : Word} (h : decode strict w = .instr i) (hrs : .rs ∈ writtenParts i) :
    encode i = w := by
  obtain ⟨-, hcanonical⟩ := decodedWordsEncodeBack strict w i h
  rw [hcanonical, canonicalWord, if_neg]
  rw [skipClass_iff]
  rintro (hc | hc)
  · obtain ⟨-, rfl⟩ := dispatchSkip_eq_instr_iff.1 ((decode_of_class5 hc).symm.trans h)
    simp [writtenParts] at hrs
  · obtain ⟨-, rfl⟩ := dispatchSkip_eq_instr_iff.1 ((decode_of_class9 hc).symm.trans h)
    simp [writtenParts] at hrs

/-- `t` is `s` halted by a fatal failure of `i`, with the instruction's own word in SR. -/
def HaltsOn (i : Instr) (s t : State) : Prop :=
  ∃ code addr, code ∈ [2, 3, 4, 5] ∧ HaltsWith code (encode i) addr s t

theorem State.raise_haltsOn {f : FailureCode} (addr : Word) (hf : f.number ∈ [2, 3, 4, 5] := by decide) :
    HaltsOn i s (s.raise f (encode i) addr) :=
  ⟨_, addr, hf, s.raise_haltsWith f _ addr⟩

/-- A checked access halts the machine only by the failure of its check. -/
theorem State.checked_haltsOn {addrs : List Nat} {ok : Nat → Bool} (he : e.rs ≠ .halted)
    (ht : (s.checked addrs ok (encode i) e).rs = .halted) : HaltsOn i s (s.checked addrs ok (encode i) e) := by
  obtain ⟨-, h⟩ | ⟨_, a, _, -, -, -, h⟩ := s.checked_cases addrs ok (encode i) e <;> rw [h] at ht ⊢
  · exact absurd ht he
  · exact State.raise_haltsOn _

/-- An instruction that looks something up, completing without a write to RS where it is found, halts the machine only
by the failure it raises where it is not. -/
theorem haltsOn_of_lookup {α : Type} {f : FailureCode} {addr : Word} (found : Option α) (hr : s.rs ≠ .halted)
    (h : exec i s = .next t) (ht : t.rs = .halted)
    (hsome : ∀ a, found = some a → ∃ e, exec i s = .next e ∧ e.rs = s.rs)
    (hnone : found = none → exec i s = .next (s.raise f (encode i) addr))
    (hf : f.number ∈ [2, 3, 4, 5] := by decide) : HaltsOn i s t := by
  cases hfound : found with
  | some a =>
    obtain ⟨e, he, hsame⟩ := hsome a hfound
    cases he.symm.trans h
    exact absurd (hsame ▸ ht) hr
  | none =>
    cases (hnone hfound).symm.trans h
    exact State.raise_haltsOn addr hf

/-- An instruction that leaves a machine HALTED that was not writes RS by its rule. -/
theorem rs_mem_writtenParts_of_halts (hr : s.rs ≠ .halted) (h : exec i s = .next t) (ht : t.rs = .halted) :
    .rs ∈ writtenParts i := by
  by_contra hrs
  have hsame : t.rs = s.rs := exec_keeps h .rs (by simp [hrs])
  exact hr (hsame ▸ ht)

/-- An instruction leaves a machine HALTED that was not only by a fatal failure, which records its own word. -/
theorem exec_haltsOn (hr : s.rs ≠ .halted) (h : exec i s = .next t) (ht : t.rs = .halted) : HaltsOn i s t := by
  have hrs := rs_mem_writtenParts_of_halts hr h ht
  cases i with
  | ret =>
    exact haltsOn_of_lookup s.pop hr h ht
      (fun _ e => ⟨_, exec_ret_of_pop e, State.pop_keeps e .rs (by decide)⟩) exec_ret_of_empty
  | call =>
    exact haltsOn_of_lookup (s.push (s.pc + 2)) hr h ht
      (fun _ e => ⟨_, exec_call_of_push e, State.push_keeps e .rs (by decide)⟩) exec_call_of_full
  | skp x => exact haltsOn_of_lookup (s.keyIndex x) hr h ht (fun _ e => ⟨_, exec_skp_of_key e, rfl⟩) exec_skp_of_noKey
  | sknp x =>
    exact haltsOn_of_lookup (s.keyIndex x) hr h ht (fun _ e => ⟨_, exec_sknp_of_key e, rfl⟩) exec_sknp_of_noKey
  | ldFVx x =>
    exact haltsOn_of_lookup (s.fontDigit x) hr h ht (fun _ e => ⟨_, exec_ldFVx_of_digit e, rfl⟩) exec_ldFVx_of_noDigit
  | ldVxK => cases h; cases ht
  | drw | ldVxMem => cases h; exact State.checked_haltsOn hr ht
  | ldBVx | ldMemVx => cases h; exact State.checked_haltsOn (by simpa using hr) ht
  | _ => simp [writtenParts] at hrs

end Sys2Proof.Machine
end

section
/-! PROOFS. What the operations of the host leave of RS and of the timers (60_exceptions R202, R205, R210, R211). -/

namespace Sys2Proof.Machine

open Sys2Proof.Claims

variable {s t : State}

theorem State.answer_keeps (s : State) (r : OpResult) : KeepsAllBut [.result] s (s.answer r) := by
  intro p hp
  cases p <;> simp_all [Part.same]

theorem State.withOps_keeps (s : State) (rest : List HostOp) : KeepsAllBut [.host] s (s.withOps rest) := by
  intro p hp
  cases p <;> simp_all [Part.same]

/-! ### UNKNOWN words -/

theorem State.reportUnknown_keeps (s : State) (w : Word) : KeepsAllBut [.sr, .pc, .result] s (s.reportUnknown w) := by
  intro p hp
  cases p <;> simp_all [Part.same]

/-- A RUNNING cycle whose fetch succeeds and whose word is UNKNOWN reports it (30_encoding R73). -/
theorem State.cycle_of_unknown {why : Unknown} (hr : s.rs = .running) (hf : fetchOk s.cfg s.pc = true)
    (hd : decode s.cfg.strict59 s.fetchWord = .unknown why) : s.cycle = .next (s.reportUnknown s.fetchWord) := by
  simp [State.cycle, State.fetchExecute, hr, hf, hd]

/-! ### HALTED -/

theorem State.cycle_of_halted (h : s.rs = .halted) : s.cycle = .next (s.answer .isHalted) := by
  rw [State.cycle, h]

theorem State.doTick_of_halted (h : s.rs = .halted) : s.doTick = s.answer .none := by
  rw [State.doTick, h]

theorem State.doLoad_keeps_rs {image : List Byte} (e : s.doLoad image = .next t) : t.rs = s.rs := by
  obtain rfl | ⟨-, rfl⟩ := State.doLoad_cases e <;> simp

/-! ### The timers -/

/-- A TICK of a machine that is not HALTED takes both timers down by 1, never below 0 (R210). -/
theorem step_tick_of_not_halted {rest : List HostOp} (hc : s.cfg.wf = true) (hr : s.rs ≠ .halted)
    (hops : s.ops = .tick :: rest) :
    ∃ t, step s = .next t ∧ t.dt.toNat = s.dt.toNat - 1 ∧ t.st.toNat = s.st.toNat - 1 ∧ t.ops = rest ∧
      KeepsAllBut [.dt, .st, .result, .host] s t := by
  refine ⟨_, step_eq_tick hc hops, ?_⟩
  rw [State.doTick_of_not_halted (s := s.withOps rest) hr]
  refine ⟨toNat_tickTimer s.dt, toNat_tickTimer s.st, rfl, ?_⟩
  exact ((s.withOps_keeps rest).mono (by simp)).trans <| ((State.setDt_keeps _ _).mono (by simp)).trans <|
    ((State.setSt_keeps _ _).mono (by simp)).trans ((State.answer_keeps _ _).mono (by simp))

/-- A TICK of a HALTED machine changes nothing (R205). -/
theorem step_tick_of_halted {rest : List HostOp} (hc : s.cfg.wf = true) (hr : s.rs = .halted)
    (hops : s.ops = .tick :: rest) : ∃ t, step s = .next t ∧ KeepsAllBut [.result, .host] s t := by
  refine ⟨_, step_eq_tick hc hops, ?_⟩
  rw [State.doTick_of_halted (s := s.withOps rest) hr]
  exact ((s.withOps_keeps rest).mono (by simp)).trans ((State.answer_keeps _ _).mono (by simp))

/-- The step raised neither timer. -/
def RaisesNoTimer (s t : State) : Prop := t.dt.toNat ≤ s.dt.toNat ∧ t.st.toNat ≤ s.st.toNat

theorem RaisesNoTimer.of_eq (hdt : t.dt = s.dt := by rfl) (hst : t.st = s.st := by rfl) : RaisesNoTimer s t :=
  ⟨hdt ▸ Nat.le_refl _, hst ▸ Nat.le_refl _⟩

/-- The step ran the instruction that the word at pc decodes to, and wrote no more than that instruction may. -/
def RanInstr (i : Instr) (s t : State) : Prop :=
  s.rs = .running ∧ decode s.cfg.strict59 s.fetchWord = .instr i ∧
    KeepsAllBut (.inputs :: .host :: .pc :: .result :: writtenParts i) s t

theorem State.keyPoll_raisesNoTimer (s : State) (r : RegIx) : RaisesNoTimer s (s.keyPoll r) := by
  obtain e | ⟨k, -, e⟩ := s.keyPoll_cases r <;> rw [e] <;> exact .of_eq

theorem State.doTick_raisesNoTimer (s : State) : RaisesNoTimer s s.doTick := by
  obtain e | e := s.doTick_cases <;> rw [e]
  · exact .of_eq
  · exact ⟨(toNat_tickTimer s.dt).trans_le (Nat.sub_le _ 1), (toNat_tickTimer s.st).trans_le (Nat.sub_le _ 1)⟩

theorem State.doLoad_raisesNoTimer {image : List Byte} (e : s.doLoad image = .next t) : RaisesNoTimer s t := by
  obtain rfl | ⟨-, rfl⟩ := State.doLoad_cases e <;> exact .of_eq (by simp) (by simp)

/-- A STEP raises no timer but by an instruction. -/
theorem State.cycle_raisesNoTimer_or_ranInstr (e : s.cycle = .next t) :
    RaisesNoTimer s t ∨ ∃ i, RanInstr i s t := by
  obtain ⟨-, e'⟩ | ⟨r, -, e'⟩ | ⟨-, -, e'⟩ | ⟨-, -, e'⟩ | ⟨hr, -, i, hd, e'⟩ := s.cycle_cases <;> rw [e'] at e
  · cases e; exact .inl .of_eq
  · cases e; exact .inl (s.keyPoll_raisesNoTimer r)
  · cases e; exact .inl .of_eq
  · cases e; exact .inl .of_eq
  · exact .inr ⟨i, hr, hd, (exec_keeps e).mono (by simp)⟩

/-- No operation raises a timer but a STEP that runs an instruction. -/
theorem step_raisesNoTimer_or_ranInstr (e : step s = .next t) : RaisesNoTimer s t ∨ ∃ i, RanInstr i s t := by
  obtain ⟨-, e'⟩ | ⟨-, ⟨s', hs, e'⟩ | ⟨rest, -, e'⟩ | ⟨rest, -, e'⟩ | ⟨image, rest, -, e'⟩⟩ := step_cases s <;>
    rw [e'] at e
  · cases e
  · obtain ⟨-, -, -, -, -, hdt, hst, -, -, hrs, -, -, hcfg, -, hword⟩ := hs.fields
    obtain ⟨hdt', hst'⟩ | ⟨i, hr, hd, hkeeps⟩ := State.cycle_raisesNoTimer_or_ranInstr e
    · exact .inl ⟨hdt ▸ hdt', hst ▸ hst'⟩
    · exact .inr ⟨i, hrs ▸ hr, hcfg ▸ hword ▸ hd, (hs.keeps.mono (by simp)).trans hkeeps⟩
  · cases e; exact .inl (State.doTick_raisesNoTimer _)
  · cases e; exact .inl ⟨Nat.zero_le _, Nat.zero_le _⟩
  · exact .inl (State.doLoad_raisesNoTimer (s := s.withOps rest) e)

theorem eq_ldDtVx_of_dt_mem {i : Instr} (h : .dt ∈ writtenParts i) : ∃ x, i = .ldDtVx x := by
  cases i
  case ldDtVx x => exact ⟨x, rfl⟩
  all_goals simp [writtenParts] at h

theorem eq_ldStVx_of_st_mem {i : Instr} (h : .st ∈ writtenParts i) : ∃ x, i = .ldStVx x := by
  cases i
  case ldStVx x => exact ⟨x, rfl⟩
  all_goals simp [writtenParts] at h

/-- A part that an instruction changed, besides pc, the outcome and what every STEP writes, is one it may write. -/
theorem RanInstr.mem_writtenParts {i : Instr} {p : Part} (h : RanInstr i s t) (hp : ¬ p.same s t)
    (hcommon : p ∉ [.inputs, .host, .pc, .result] := by decide) : p ∈ writtenParts i := by
  obtain ⟨-, -, hkeeps⟩ := h
  by_contra hnot
  exact hp (hkeeps p (by simp_all))

end Sys2Proof.Machine
end

section
/-! PROOFS. The statements of 60_exceptions. -/

namespace Sys2Proof.Machine

open Sys2Proof.Claims

/-- Settles O24: a RUNNING cycle ends HALTED by the failed fetch or by an instruction's failure, whose recorded word
is the fetched one. -/
theorem fatalFailuresArePrecise : Obligations.FatalFailuresArePrecise := by
  intro s s' t hc hs hr hstep ht
  obtain ⟨-, -, hpc, -, -, -, -, -, -, hrs, -, -, hcfg, -, hword⟩ := hs.fields
  rw [step_eq_cycle hc hs] at hstep
  rw [← hcfg, ← hpc, ← hword]
  obtain ⟨hr', -⟩ | ⟨r, hr', -⟩ | ⟨-, hf, e⟩ | ⟨hr', -, e⟩ | ⟨hr', hf, i, hd, e⟩ := s'.cycle_cases
  · simp [hrs, hr] at hr'
  · simp [hrs, hr] at hr'
  · cases e.symm.trans hstep
    exact .inl ⟨hf, s'.raise_haltsWith .addressOutOfRange 0 s'.pc⟩
  · cases e.symm.trans hstep
    cases hr'.symm.trans ht
  · have hnot : s'.rs ≠ .halted := by simp [hr']
    have hexec := e.symm.trans hstep
    obtain ⟨code, addr, hcode, hhalts⟩ := exec_haltsOn hnot hexec ht
    rw [encode_of_decode hd (rs_mem_writtenParts_of_halts hnot hexec ht)] at hhalts
    exact .inr ⟨hf, code, addr, hcode, hhalts⟩

/-- Settles O10: the STEP is the cycle of the state with its inputs taken in, and that cycle reports the word. -/
theorem unknownOpcodeIsSkippedAndRecorded : Obligations.UnknownOpcodeIsSkippedAndRecorded := by
  intro s s' why hc hs hr hf hd
  obtain ⟨-, -, hpc, -, -, -, -, -, -, hrs, -, hsr, hcfg, -, hword⟩ := hs.fields
  rw [← hcfg, ← hpc] at hf
  rw [← hcfg, ← hword] at hd
  rw [← hpc, ← hsr, ← hword]
  exact ⟨_, (step_eq_cycle hc hs).trans (State.cycle_of_unknown (hrs.trans hr) hf hd), rfl, rfl, rfl,
    s'.reportUnknown_keeps _⟩

/-- Settles O11, by the operation the step runs: each but RESET leaves RS as it is. -/
theorem haltedLeavesOnlyByReset : Obligations.HaltedLeavesOnlyByReset := by
  intro s hc hr
  have hsteps : ∀ s', TakesStep s s' → step s = .next (s'.answer .isHalted) ∧ s'.rs = .halted := by
    intro s' hs
    have hr' : s'.rs = .halted := (hs.keeps .rs (by decide)).trans hr
    exact ⟨(step_eq_cycle hc hs).trans (State.cycle_of_halted hr'), hr'⟩
  refine ⟨fun s' hs => ⟨_, (hsteps s' hs).1, rfl, s'.answer_keeps _⟩, fun _ => step_tick_of_halted hc hr,
    fun _ hops => ⟨_, step_eq_reset hc hops, rfl⟩, fun t e hne => ?_⟩
  obtain ⟨-, e'⟩ | ⟨-, ⟨s', hs, -⟩ | ⟨rest, hops, -⟩ | ⟨rest, hops, -⟩ | ⟨image, rest, -, e'⟩⟩ := step_cases s
  · cases e'.symm.trans e
  · obtain ⟨e', hr'⟩ := hsteps s' hs
    cases e'.symm.trans e
    exact absurd hr' hne
  · obtain ⟨t', e', hkeeps⟩ := step_tick_of_halted hc hr hops
    cases e'.symm.trans e
    exact absurd ((hkeeps .rs (by decide)).trans hr) hne
  · exact ⟨rest, hops⟩
  · exact absurd ((State.doLoad_keeps_rs (e'.symm.trans e)).trans hr) hne

/-- Settles O19, by induction on the TICKs: each takes one off both timers and leaves the rest of the queue. -/
theorem timersReachZeroAndStay : Obligations.TimersReachZeroAndStay := by
  intro n rest
  induction n with
  | zero =>
    intro s _ _ hops
    exact ⟨s, rfl, rfl, rfl, hops, .refl _ s⟩
  | succ n ih =>
    intro s hc hr hops
    obtain ⟨e, hstep, hdt, hst, hrest, hkeeps⟩ := step_tick_of_not_halted hc hr hops
    have hcfg : e.cfg = s.cfg := hkeeps .cfg (by decide)
    have hrs : e.rs = s.rs := hkeeps .rs (by decide)
    obtain ⟨t, hrun, hdt', hst', ht, hkeeps'⟩ := ih e (hcfg ▸ hc) (hrs ▸ hr) hrest
    exact ⟨t, (run_succ_of_step Sys2Proof.core n hstep).trans hrun, by omega, by omega, ht, hkeeps.trans hkeeps'⟩

/-- Settles O20: a raised timer is a part that the instruction run may write, and one instruction may write it. -/
theorem onlyTimerLoadsRaiseATimer : Obligations.OnlyTimerLoadsRaiseATimer := by
  intro s t e
  obtain ⟨hdt, hst⟩ | ⟨i, hran⟩ := step_raisesNoTimer_or_ranInstr e
  · exact ⟨fun h => absurd h hdt.not_gt, fun h => absurd h hst.not_gt⟩
  · have ⟨hr, hd, _⟩ := hran
    constructor
    · intro h
      have hchanged : ¬ Part.dt.same s t := fun heq : t.dt = s.dt => by simp [heq] at h
      obtain ⟨x, rfl⟩ := eq_ldDtVx_of_dt_mem (hran.mem_writtenParts hchanged)
      exact ⟨x, hr, hd⟩
    · intro h
      have hchanged : ¬ Part.st.same s t := fun heq : t.st = s.st => by simp [heq] at h
      obtain ⟨x, rfl⟩ := eq_ldStVx_of_st_mem (hran.mem_writtenParts hchanged)
      exact ⟨x, hr, hd⟩

/-- Settles O18, by whether the machine is HALTED. -/
theorem tickDecrementsBothTimers : Obligations.TickDecrementsBothTimers := by
  intro s rest hc hops
  by_cases hr : s.rs = .halted
  · obtain ⟨t, hstep, hkeeps⟩ := step_tick_of_halted hc hr hops
    exact ⟨t, hstep, absurd hr, fun _ => ⟨hkeeps .dt (by decide), hkeeps .st (by decide)⟩, hkeeps.mono (by simp)⟩
  · obtain ⟨t, hstep, hdt, hst, -, hkeeps⟩ := step_tick_of_not_halted hc hr hops
    exact ⟨t, hstep, fun _ => ⟨hdt, hst⟩, fun h => absurd h hr, hkeeps⟩

end Sys2Proof.Machine
end

section
/-! PROOFS. What the three outcomes of LOAD are, and what the operations of the host leave of the LOAD window
(70_reset_and_hazards R232). -/

namespace Sys2Proof.Machine

open Sys2Proof.Claims

variable {s t : State} {image : List Byte}

/-! ### The outcomes of LOAD -/

theorem State.doLoad_of_fits (h : s.loadable = true) (hlen : image.length ≤ 0xE00) :
    s.doLoad image = .next ((s.storeBytes 0x200 image).answer .ok) := by
  rw [State.doLoad, if_pos h, if_neg hlen.not_gt]

theorem State.doLoad_of_tooLarge (h : s.loadable = true) (hlen : 0xE00 < image.length) :
    s.doLoad image = .next (s.answer .programLoadError) := by
  rw [State.doLoad, if_pos h, if_pos hlen]

theorem State.doLoad_of_late (h : s.loadable = false) : s.doLoad image = .refused .lateLoad := by
  rw [State.doLoad, if_neg (by simp [h])]

/-! ### The LOAD window -/

/-- An operation that answers a next state ran under good parameters. -/
theorem cfg_wf_of_step (e : step s = .next t) : s.cfg.wf = true := by
  obtain ⟨-, e'⟩ | ⟨hc, -⟩ := step_cases s
  · cases e'.symm.trans e
  · exact hc

/-- No instruction writes the host's part. -/
theorem host_not_mem_writtenParts (i : Instr) : Part.host ∉ .pc :: .result :: writtenParts i := by
  cases i <;> simp [writtenParts]

theorem State.keyPoll_loadable (s : State) (r : RegIx) : (s.keyPoll r).loadable = s.loadable := by
  obtain e | ⟨k, -, e⟩ := s.keyPoll_cases r <;> rw [e] <;> rfl

/-- A STEP, once its inputs are taken in, leaves the window as it is, whatever it runs. -/
theorem State.cycle_keeps_loadable (e : s.cycle = .next t) : t.loadable = s.loadable := by
  obtain ⟨-, e'⟩ | ⟨r, -, e'⟩ | ⟨-, -, e'⟩ | ⟨-, -, e'⟩ | ⟨-, -, i, -, e'⟩ := s.cycle_cases <;> rw [e'] at e
  · cases e; rfl
  · cases e; exact s.keyPoll_loadable r
  · cases e; rfl
  · cases e; rfl
  · obtain ⟨-, -, hloadable⟩ := exec_keeps e .host (host_not_mem_writtenParts i)
    exact hloadable

/-- Taking in a STEP's inputs closes the window. -/
theorem TakesStep.loadable (h : TakesStep s t) : t.loadable = false := by
  obtain ⟨_, _, _, -, rfl⟩ | ⟨-, rfl⟩ := h <;> rfl

theorem State.doTick_loadable (s : State) : s.doTick.loadable = s.loadable := by
  obtain e | e := s.doTick_cases <;> rw [e] <;> rfl

theorem State.doLoad_keeps_loadable (e : s.doLoad image = .next t) : t.loadable = s.loadable := by
  obtain rfl | ⟨-, rfl⟩ := State.doLoad_cases e <;> simp

end Sys2Proof.Machine
end

section
/-! PROOFS. The statements of 70_reset_and_hazards. -/

namespace Sys2Proof.Machine

/-- Settles O14, by the outcome of LOAD: an image that fits is one block stored at 0x200. -/
theorem loadPlacesTheImage : Obligations.LoadPlacesTheImage := by
  intro s image rest hc hops
  have hstep : step s = (s.withOps rest).doLoad image := step_eq_load hc hops
  refine ⟨fun hload hlen hm => ?_, fun hload hlen => ?_, fun hlate => ?_⟩
  · obtain ⟨hrising, -⟩ := hm
    refine ⟨_, hstep.trans (State.doLoad_of_fits hload hlen), rfl, ?_, ?_, ?_⟩
    · exact fun k hk => (s.withOps rest).readByte_storeBytes_inside image 0x200 k hrising hk
    · exact fun b => (s.withOps rest).readByte_storeBytes_outside image 0x200 b
    · exact ((s.withOps_keeps rest).mono (by simp)).trans <|
        ((State.storeBytes_keeps _ _ _).mono (by simp)).trans ((State.answer_keeps _ _).mono (by simp))
  · exact ⟨_, hstep.trans (State.doLoad_of_tooLarge hload hlen), rfl,
      ((s.withOps_keeps rest).mono (by simp)).trans ((State.answer_keeps _ _).mono (by simp))⟩
  · exact hstep.trans (State.doLoad_of_late hlate)

/-- Settles O15, operation by operation: RESET opens the window, taking in a STEP's inputs closes it, and nothing else
writes it. -/
theorem loadIsAllowedUntilTheFirstStep : Obligations.LoadIsAllowedUntilTheFirstStep := by
  intro s t e
  have hc := cfg_wf_of_step e
  refine ⟨fun rest hops => ?_, fun s' hs => ?_, fun rest hops => ?_, fun image rest hops => ?_⟩
  · cases (step_eq_reset hc hops).symm.trans e
    rfl
  · exact (State.cycle_keeps_loadable ((step_eq_cycle hc hs).symm.trans e)).trans hs.loadable
  · cases (step_eq_tick hc hops).symm.trans e
    exact State.doTick_loadable _
  · exact State.doLoad_keeps_loadable (s := s.withOps rest) ((step_eq_load hc hops).symm.trans e)

end Sys2Proof.Machine
end
